-- ==== Sys2Proof/Word.lean ====
section
/-!
DEFINITION. The data types below everything else: bytes, 32-bit words, and the type of real values
(`00_scope.md` R8, R9, R12). Arithmetic on real values is in Machine/F64.lean.
-/

namespace Sys2Proof

/-- A byte: a sample of `LUMA`, a codeword, a data or text byte, a field element (R40, R43 to R45, R380). -/
abbrev Byte := BitVec 8

/-- A register, a host data word, a host address (R21, R86). -/
abbrev Word := BitVec 32

/-- A value of type `F64` (R12), the type of real quantities: a value of the number format `NUMFMT`, binary64 by
default. `fin neg m e` is `(-1)^neg * m * 2^e`, kept with the `m` of a value as long as the format allows (in binary64
`2^52 <= m < 2^53`, or `m < 2^52` and `e = -1074`), a zero with `e = 0`, so that equal values are equal data. R12
promises that no rule produces an infinity or a NaN; they are here only because the operations are total. -/
inductive F64 where
  | fin (neg : Bool) (mant : Nat) (exp : Int)
  | inf (neg : Bool)
  | nan
  deriving DecidableEq, Repr, Inhabited

/-- Positive zero. -/
def F64.zero : F64 := .fin false 0 0

end Sys2Proof
end

