-- ==== Sys2Proof/Config.lean ====
section
/-!
DEFINITION. What an implementation of QRDEC fixes (`00_scope.md` R6, R7; `92_eei_decisions.md` section 7) and the
model's free values. A build is a value of `Config`; the machine holds its own in `State.cfg` (log 5), so that a
statement about every state is a statement about every build.
-/

namespace Sys2Proof

/-- How a result that lies between two values of the number format is rounded. -/
inductive Rounding where
  | nearestEven
  | nearestAway
  | towardZero
  deriving DecidableEq, Repr

/-- `NUMFMT` (R6, R12, D6): a binary number format, the values `m * 2^e` with `m < 2^prec` and `emin <= e <= emax`, and
its rounding. The default is IEEE 754 binary64, to nearest, ties to even. A fixed-point format of scale `2^emin` is one
whose precision no value reaches. That other formats are of this shape is the model's choice (log 6). -/
structure NumFmt where
  /-- The bits of a significand. -/
  prec : Nat := 53
  /-- The exponent of the last place of the smallest values. -/
  emin : Int := -1074
  /-- The exponent of the last place of the largest values. -/
  emax : Int := 971
  /-- The rounding. -/
  rounding : Rounding := .nearestEven
  deriving DecidableEq, Repr

/-- IEEE 754 binary64 (R12), the encoding of `PTS` and `RES_MODULE_SIZE` (R37). -/
def NumFmt.binary64 : NumFmt := {}

/-- The estimator of a block's black point (R6 `BP_EST`, R204). -/
inductive BpEst where
  | midpoint
  | mean
  deriving DecidableEq, Repr

/-- The parameters of R6 with the defaults of its table. -/
structure Config where
  /-- `BASE` (D4): where the platform puts the register block. -/
  base : Nat := 0
  /-- `INIT_MEM` (R62, R551): the memory contents at power-up, as (address, byte) pairs, the rest 0. -/
  initMem : List (Nat × Byte) := []
  /-- `MAX_W` (R31). -/
  maxW : Nat := 2048
  /-- `MAX_H` (R32). -/
  maxH : Nat := 2048
  /-- `NUMFMT` (R12). -/
  numFmt : NumFmt := {}
  /-- `BLOCK_POW` (R203): the binary logarithm of `BLOCK`. -/
  blockPow : Nat := 3
  /-- `MIN_DYNAMIC_RANGE` (R204). -/
  minDynamicRange : Nat := 24
  /-- `BP_EST` (R204). -/
  bpEst : BpEst := .midpoint
  /-- The shift of `LUM_BUCKETS` (R210): a bucket holds `2^lumShift` sample values. -/
  lumShift : Nat := 3
  /-- `MAX_CAND` (R246). -/
  maxCand : Nat := 64
  /-- `MAX_ACAND` (R293). -/
  maxAcand : Nat := 64
  /-- Numerator of `SIZE_RATIO` (R251). -/
  sizeRatioNum : Nat := 7
  /-- Denominator of `SIZE_RATIO` (R251). -/
  sizeRatioDen : Nat := 5
  /-- `ALIGN_ALLOW` (R292). -/
  alignAllow : List Nat := [4, 8, 16]
  /-- `VERSION_MAX_DIFF` (R340). -/
  versionMaxDiff : Nat := 3
  deriving DecidableEq, Repr

/-- The build all of the spec's examples and test vectors use (R6). -/
def Config.hw : Config := {}

/-- `BLOCK` (R6, R203): the edge of a block, a power of two. -/
def Config.block (c : Config) : Nat := 2 ^ c.blockPow

/-- `MIN_DIM` (R6, R201): `NEIGH * BLOCK`. -/
def Config.minDim (c : Config) : Nat := 5 * c.block

/-- `LUM_BUCKETS` (R6, R210): the buckets of the histogram of 8-bit samples. -/
def Config.lumBuckets (c : Config) : Nat := 256 / 2 ^ c.lumShift

/-- Do the parameters meet the constraints of `92_eei_decisions.md` section 7 and of R86? That the block lies within the
32-bit address space and that `RES_NCAND` (7 bits, R36) can hold `MAX_CAND` are inferred (log 5). -/
def Config.legal (c : Config) : Bool :=
  c.base % 4 = 0 && c.base + 0x03028000 ≤ 2 ^ 32
    && 1 ≤ c.maxW && 1 ≤ c.maxH && c.maxW * c.maxH ≤ 2 ^ 24 && 4 * ((c.maxW + 31) / 32) * c.maxH ≤ 2 ^ 24
    && 1 ≤ c.numFmt.prec && c.numFmt.emin ≤ c.numFmt.emax
    && c.minDynamicRange ≤ 255 && c.lumShift ≤ 8
    && 3 ≤ c.maxCand && c.maxCand ≤ 127 && 1 ≤ c.maxAcand
    && 1 ≤ c.sizeRatioDen && c.sizeRatioDen ≤ c.sizeRatioNum
    && c.alignAllow != [] && c.alignAllow.Pairwise (· < ·)
    && c.versionMaxDiff ≤ 3

/-- What converting a non-finite number to an integer gives. R12: 'No rule ever produces a NaN or an infinity',
so nothing reads it; a free value, not a number chosen here (log 6, safe). -/
opaque Config.truncNonFinite : F64 → Int

/-- The 64 bits a NaN would be exported as (R37). Never needed, by R12; a free value (log 6, safe). -/
opaque Config.nanBits : BitVec 64

end Sys2Proof
end

