-- ==== Sys2Proof/Machine/F64.lean ====
section
/-!
DEFINITION. Arithmetic on real quantities (`00_scope.md` R12) in a number format `NUMFMT`, binary64 by default: every
`+`, `-`, `*`, `/` and `sqrt` computes the exact result and rounds it once; comparisons are exact; `trunc`, `floor` and
`round` convert to integers. The cases with an infinity or a NaN follow IEEE 754 and never arise by R12.
-/

namespace Sys2Proof

/-! ## Rounding -/

/-- A significand of at most `prec` bits with its exponent as a value: renormalised after a rounding carry; beyond the
largest exponent an infinity, or the largest value where rounding is toward zero. -/
def F64.pack (nf : NumFmt) (neg : Bool) (m : Nat) (e : Int) : F64 :=
  let m' := if m = 2 ^ nf.prec then 2 ^ (nf.prec - 1) else m
  let e' := if m = 2 ^ nf.prec then e + 1 else e
  if e' ≤ nf.emax then .fin neg m' e'
  else match nf.rounding with
    | .nearestEven => .inf neg
    | .nearestAway => .inf neg
    | .towardZero => .fin neg (2 ^ nf.prec - 1) nf.emax

/-- `m / 2^sh` rounded to an integer. -/
def roundShift (rounding : Rounding) (m sh : Nat) : Nat :=
  let q := m >>> sh
  let r := m - (q <<< sh)
  match rounding with
  | .nearestEven => if 2 * r > 2 ^ sh ∨ (2 * r = 2 ^ sh ∧ q % 2 = 1) then q + 1 else q
  | .nearestAway => if 2 * r ≥ 2 ^ sh then q + 1 else q
  | .towardZero => q

/-- `(-1)^neg * m * 2^e` rounded to the format. -/
def F64.roundTo (nf : NumFmt) (neg : Bool) (m : Nat) (e : Int) : F64 :=
  if m = 0 then .fin neg 0 0
  else
    let e' := max (e + (m.log2 : Int) + 1 - nf.prec) nf.emin
    let m' := if e' ≤ e then m <<< (e - e').toNat else roundShift nf.rounding m (e' - e).toNat
    if m' = 0 then .fin neg 0 0 else F64.pack nf neg m' e'

/-! ## Conversions from and to integers and bits -/

/-- The conversion of an integer (R12: in binary64 exact, all that occur are below 2^53). -/
def F64.ofInt (nf : NumFmt) (i : Int) : F64 := F64.roundTo nf (i < 0) i.natAbs 0

/-- The conversion of a natural number. -/
def F64.ofNat (nf : NumFmt) (n : Nat) : F64 := F64.roundTo nf false n 0

/-- A sign and a magnitude as an integer. -/
def signed (neg : Bool) (m : Nat) : Int := if neg then -(m : Int) else (m : Int)

/-- `trunc(v)`: the fraction discarded, toward zero (R12). -/
def F64.trunc : F64 → Int
  | .fin neg m e => signed neg (if e ≥ 0 then m <<< e.toNat else m >>> (-e).toNat)
  | v => Config.truncNonFinite v

/-- `floor(v)`: toward minus infinity (R12). -/
def F64.floor : F64 → Int
  | .fin neg m e =>
    if e ≥ 0 then signed neg (m <<< e.toNat)
    else
      let q := m >>> (-e).toNat
      if neg ∧ m ≠ q <<< (-e).toNat then -(q : Int) - 1 else signed neg q
  | v => Config.truncNonFinite v

/-- The 64-bit encoding of a binary64 value. -/
def F64.encode64 : F64 → BitVec 64
  | .fin neg m e =>
    let s : Nat := if neg then 2 ^ 63 else 0
    if m < 2 ^ 52 then BitVec.ofNat 64 (s + m)
    else BitVec.ofNat 64 (s + (e + 1075).toNat * 2 ^ 52 + (m - 2 ^ 52))
  | .inf neg => BitVec.ofNat 64 ((if neg then 2 ^ 63 else 0) + 2047 * 2 ^ 52)
  | .nan => Config.nanBits

/-- The 64-bit binary64 encoding (R37, D6): a value of another format is first rounded to binary64 (log 6). -/
def F64.toBits : F64 → BitVec 64
  | .fin neg m e => F64.encode64 (F64.roundTo .binary64 neg m e)
  | v => F64.encode64 v

/-- Is the value neither an infinity nor a NaN? -/
def F64.isFinite : F64 → Bool
  | .fin _ _ _ => true
  | .inf _ => false
  | .nan => false

/-! ## Arithmetic -/

/-- `-a`. -/
def F64.neg : F64 → F64
  | .fin n m e => .fin (!n) m e
  | .inf n => .inf (!n)
  | .nan => .nan

/-- `abs(a)`. -/
def F64.abs : F64 → F64
  | .fin _ m e => .fin false m e
  | .inf _ => .inf false
  | .nan => .nan

/-- `a + b`. An exact sum of zero is `+0` unless both operands are negative zeros. -/
def F64.add (nf : NumFmt) : F64 → F64 → F64
  | .fin n1 m1 e1, .fin n2 m2 e2 =>
    let e := min e1 e2
    let s := signed n1 (m1 <<< (e1 - e).toNat) + signed n2 (m2 <<< (e2 - e).toNat)
    if s = 0 then .fin (n1 && n2) 0 0 else F64.roundTo nf (s < 0) s.natAbs e
  | .inf n1, .inf n2 => if n1 = n2 then .inf n1 else .nan
  | .inf n1, .fin _ _ _ => .inf n1
  | .fin _ _ _, .inf n2 => .inf n2
  | .nan, _ => .nan
  | _, .nan => .nan

/-- `a - b`. -/
def F64.sub (nf : NumFmt) (a b : F64) : F64 := F64.add nf a (F64.neg b)

/-- `a * b`. -/
def F64.mul (nf : NumFmt) : F64 → F64 → F64
  | .fin n1 m1 e1, .fin n2 m2 e2 => F64.roundTo nf (n1 != n2) (m1 * m2) (e1 + e2)
  | .inf n1, .inf n2 => .inf (n1 != n2)
  | .inf n1, .fin n2 m2 _ => if m2 = 0 then .nan else .inf (n1 != n2)
  | .fin n1 m1 _, .inf n2 => if m1 = 0 then .nan else .inf (n1 != n2)
  | .nan, _ => .nan
  | _, .nan => .nan

/-- `a / b`. The quotient is taken to more bits than the format holds, with one sticky bit for the remainder. -/
def F64.div (nf : NumFmt) : F64 → F64 → F64
  | .fin n1 m1 e1, .fin n2 m2 e2 =>
    if m2 = 0 then (if m1 = 0 then .nan else .inf (n1 != n2))
    else
      let sh := 2 * nf.prec + 14
      let num := m1 <<< sh
      let q := num / m2
      let sticky := if q * m2 = num then 0 else 1
      F64.roundTo nf (n1 != n2) (2 * q + sticky) (e1 - e2 - sh - 1)
  | .inf _, .inf _ => .nan
  | .inf n1, .fin n2 _ _ => .inf (n1 != n2)
  | .fin n1 _ _, .inf n2 => .fin (n1 != n2) 0 0
  | .nan, _ => .nan
  | _, .nan => .nan

/-- The bits `k-1` down to 0 of the integer square root of `n`, above the bits `r` already found. -/
def isqrtGo (n : Nat) : Nat → Nat → Nat
  | 0, r => r
  | k + 1, r => if (r + 2 ^ k) * (r + 2 ^ k) ≤ n then isqrtGo n k (r + 2 ^ k) else isqrtGo n k r

/-- The integer square root of `n < 2^(2 * k)`. -/
def isqrt (k n : Nat) : Nat := isqrtGo n k 0

/-- `sqrt(a)`: the exponent is made even, the integer root taken to more bits than the format holds, with one sticky
bit. The root of a zero is that zero, of another negative number a NaN. -/
def F64.sqrt (nf : NumFmt) : F64 → F64
  | .fin neg m e =>
    if m = 0 then .fin neg m e
    else if neg then .nan
    else
      let odd := e % 2 = 1
      let m' := (if odd then 2 * m else m) <<< (2 * nf.prec + 22)
      let e' := (if odd then e - 1 else e) - (2 * nf.prec + 22)
      let r := isqrt (2 * nf.prec + 22) m'
      let sticky := if r * r = m' then 0 else 1
      F64.roundTo nf false (2 * r + sticky) (e' / 2 - 1)
  | .inf neg => if neg then .nan else .inf false
  | .nan => .nan

/-! ## Comparisons -/

/-- `a < b`, exact; false when one is a NaN. -/
def F64.lt : F64 → F64 → Bool
  | .fin n1 m1 e1, .fin n2 m2 e2 =>
    let e := min e1 e2
    signed n1 (m1 <<< (e1 - e).toNat) < signed n2 (m2 <<< (e2 - e).toNat)
  | .inf n1, .inf n2 => n1 && !n2
  | .inf n1, .fin _ _ _ => n1
  | .fin _ _ _, .inf n2 => !n2
  | .nan, _ => false
  | _, .nan => false

/-- `a = b` as numbers: the two zeros are equal; false when one is a NaN. -/
def F64.eqv : F64 → F64 → Bool
  | .fin n1 m1 e1, .fin n2 m2 e2 =>
    let e := min e1 e2
    signed n1 (m1 <<< (e1 - e).toNat) = signed n2 (m2 <<< (e2 - e).toNat)
  | .inf n1, .inf n2 => n1 == n2
  | .inf _, .fin _ _ _ => false
  | .fin _ _ _, .inf _ => false
  | .nan, _ => false
  | _, .nan => false

/-- `a <= b`. -/
def F64.le (a b : F64) : Bool := F64.lt a b || F64.eqv a b

/-- The smaller of two values. -/
def F64.min (a b : F64) : F64 := if F64.lt b a then b else a

/-- The larger of two values. -/
def F64.max (a b : F64) : F64 := if F64.lt a b then b else a

/-! ## Constants the rules write -/

/-- `0.5`. -/
def F64.half (nf : NumFmt) : F64 := F64.div nf (F64.ofNat nf 1) (F64.ofNat nf 2)

/-- `3.5`. -/
def F64.threeAndHalf (nf : NumFmt) : F64 := F64.div nf (F64.ofNat nf 7) (F64.ofNat nf 2)

/-- `round(v) = floor(v + 0.5)` (R12). -/
def F64.round (nf : NumFmt) (v : F64) : Int := F64.floor (F64.add nf v (F64.half nf))

end Sys2Proof
end

