-- ==== Sys2Proof/Syntax.lean ====
section
/-!
DEFINITION. The instructions of QRDEC, both levels (`00_scope.md` R2): one constructor for every row of
spec/opcode_table.json. Level 1 is one 32-bit command word (`30_encoding.md` R120 to R124), level 2 a bit string in
`DATA` (R130 to R144).
-/

namespace Sys2Proof

/-- The forms of an ECI `DESIGNATOR` (R139): one, two or three bytes by the leading bits of the first byte, and the
illegal form `111xxxxx`, of which only the first byte is read. -/
inductive EciDesignator where
  | one (v : BitVec 7)
  | two (v : BitVec 14)
  | three (v : BitVec 21)
  | illegal (low : BitVec 5)
  deriving DecidableEq, Repr

/-- One instruction of either level.

The segment constructors carry what stands in the stream after `MODE`: `COUNT` and the groups as raw field values
(R134 to R138), before any range check, since an out-of-range group is the instruction's own exception (R431, R433).
`COUNT` of BYTE, KANJI and HANZI is the length of the list. -/
inductive Instr where
  /-- R480 -/
  | nop
  /-- R481 -/
  | decode
  /-- R482 -/
  | binarize
  /-- R483 -/
  | detect
  /-- R484 -/
  | decodesym
  /-- R485 -/
  | rsdecode
  /-- R486 -/
  | parsebits
  /-- R488 -/
  | clear
  /-- R124: the command word 0x8 -/
  | reservedCmd8
  /-- R124: the command word 0x9 -/
  | reservedCmd9
  /-- R124: the command word 0xA -/
  | reservedCmdA
  /-- R124: the command word 0xB -/
  | reservedCmdB
  /-- R124: the command word 0xC -/
  | reservedCmdC
  /-- R124: the command word 0xD -/
  | reservedCmdD
  /-- R124: the command word 0xE -/
  | reservedCmdE
  /-- R124: the command word 0xF -/
  | reservedCmdF
  /-- R124: a command word with any of bits 31:4 set, whatever `OP` is -/
  | reservedCmdNonzeroUpper (op : BitVec 4) (upper : BitVec 28)
  /-- R430 -/
  | terminator
  /-- R431: `COUNT` digits; the 10-bit groups, then the 7- or 4-bit group, as read (R134) -/
  | numeric (count : Nat) (groups : List Nat)
  /-- R433: `COUNT` symbols; the 11-bit groups, then the 6-bit group, as read (R135) -/
  | alphanumeric (count : Nat) (groups : List Nat)
  /-- R445 -/
  | structuredAppend (seq : BitVec 8) (parity : BitVec 8)
  /-- R434 -/
  | byte (payload : List (BitVec 8))
  /-- R446 -/
  | fnc1First
  /-- R448 -/
  | eci (designator : EciDesignator)
  /-- R435 -/
  | kanji (codes : List (BitVec 13))
  /-- R447 -/
  | fnc1Second (app : BitVec 8)
  /-- R436: `SUBSET`, then, where it is 1, the codes -/
  | hanzi (subset : BitVec 4) (codes : List (BitVec 13))
  /-- R449: mode 0110 -/
  | reservedMode6
  /-- R449: mode 1010 -/
  | reservedModeA
  /-- R449: mode 1011 -/
  | reservedModeB
  /-- R449: mode 1100 -/
  | reservedModeC
  /-- R449: mode 1110 -/
  | reservedModeE
  /-- R449: mode 1111 -/
  | reservedModeF
  deriving DecidableEq, Repr

/-- The version tiers that select the count widths (R132). -/
inductive Tier where
  | low
  | mid
  | high
  deriving DecidableEq, Repr

/-- The counted modes (R132, R133). -/
inductive CountedMode where
  | numeric
  | alphanumeric
  | byte
  | kanji
  | hanzi
  deriving DecidableEq, Repr

end Sys2Proof
end

