-- ==== Sys2Proof/Machine/State.lean ====
section
/-!
DEFINITION. The state of QRDEC as plain data (`10_state.md` R20 to R62), the reasons a step can stop, and the state
after reset. INVENTORY.md lists every field with its rule and its reset value.
-/

namespace Sys2Proof.Machine

open Sys2Proof

/-! ## Closed enumerations -/

/-- `STATUS.STATE` (R25). Values 5 to 7 are never produced. -/
inductive RunState where
  | idle
  | busy
  | done
  | fail
  | fatal
  deriving DecidableEq, Repr

/-- The stage codes (R27); `fin` is the stage END. Codes 8 to 15 are reserved. -/
inductive Stage where
  | none
  | bin
  | det
  | parse
  | readcw
  | ec
  | bits
  | fin
  deriving DecidableEq, Repr

/-- The exception kinds (R500). -/
inductive Kind where
  | notFound
  | format
  | checksum
  | precondition
  deriving DecidableEq, Repr

/-- The exceptions, one per detail code (R501: 'the list is closed'). Kind, stage and code follow from it. -/
inductive Exc where
  | nfBinDegenerate
  | nfBinContrast
  | nfFewFinders
  | nfModuleSize
  | nfSampleOob
  | nfDegenerateQuad
  | feDimension
  | feFormatInfo
  | feVersionInfo
  | feCwCount
  | feMode
  | feTruncated
  | feValue
  | feEci
  | feHanziSubset
  | ceUncorrectable
  | pvZeroSize
  | pvSizeRange
  | pvBadCmd
  | pvBadArg
  | pvBadHint
  deriving DecidableEq, Repr

/-- The command being executed (R472 sequences the stages by it). `reserved` is a word of R124; NOP and CLEAR complete
in their acceptance step and never stand here. -/
inductive Command where
  | none
  | decode
  | binarize
  | detect
  | decodesym
  | rsdecode
  | parsebits
  | reserved
  deriving DecidableEq, Repr

/-- The widths of a host access in bytes (R82). -/
inductive Width where
  | b1
  | b2
  | b4
  deriving DecidableEq, Repr

/-! ## Result registers -/

/-- `RES_FLAGS` (R38). -/
structure Flags where
  mirrored : Bool := false
  fnc1First : Bool := false
  fnc1Second : Bool := false
  saPresent : Bool := false
  alignFound : Bool := false
  binPath : Bool := false
  eciSeen : Bool := false
  deriving DecidableEq, Repr

/-- One point of `PTS`: two binary64 encodings (R37). -/
structure PointReg where
  x : BitVec 64 := 0
  y : BitVec 64 := 0
  deriving DecidableEq, Repr

/-- The result registers, offsets 0x30 to 0xC4 (R36 to R38), each with the width R36 gives it. -/
structure Results where
  dim : BitVec 8 := 0
  version : BitVec 6 := 0
  ecbits : BitVec 2 := 0
  mask : BitVec 3 := 0
  flags : Flags := {}
  textLen : BitVec 14 := 0
  rawLen : BitVec 12 := 0
  numBits : BitVec 15 := 0
  errors : BitVec 12 := 0
  nseg : BitVec 13 := 0
  saSeq : BitVec 8 := 0
  saParity : BitVec 8 := 0
  fnc1App : BitVec 8 := 0
  npoints : BitVec 3 := 0
  ncw : BitVec 12 := 0
  bitpos : BitVec 15 := 0
  ncand : BitVec 7 := 0
  pt0 : PointReg := {}
  pt1 : PointReg := {}
  pt2 : PointReg := {}
  pt3 : PointReg := {}
  moduleSize : BitVec 64 := 0
  deriving DecidableEq, Repr

/-! ## Per-attempt internal state (R50 to R58) -/

/-- A finder candidate (R52): `(x, y, ms, count)`. -/
structure Candidate where
  x : F64
  y : F64
  ms : F64
  count : Nat
  deriving DecidableEq, Repr

/-- A located pattern (R53): `(x, y, ms)`. -/
structure Pattern where
  x : F64 := F64.zero
  y : F64 := F64.zero
  ms : F64 := F64.zero
  deriving DecidableEq, Repr

/-- The nine coefficients of a perspective transform (R53, R300). -/
structure Transform where
  a11 : F64 := F64.zero
  a21 : F64 := F64.zero
  a31 : F64 := F64.zero
  a12 : F64 := F64.zero
  a22 : F64 := F64.zero
  a32 : F64 := F64.zero
  a13 : F64 := F64.zero
  a23 : F64 := F64.zero
  a33 : F64 := F64.zero
  deriving DecidableEq, Repr

/-- Finder and geometry state (R52, R53). -/
structure DetState where
  cand : List Candidate := []
  bl : Pattern := {}
  tl : Pattern := {}
  tr : Pattern := {}
  ms : F64 := F64.zero
  dim : Nat := 0
  pv : Nat := 0
  ap : Option Pattern := none
  xf : Transform := {}
  deriving DecidableEq, Repr

/-- Matrix-parser state that passes from stage to stage (R54). -/
structure SymState where
  ecbits : BitVec 2 := 0
  mask : BitVec 3 := 0
  ver : Nat := 0
  ncw : Nat := 0
  deriving DecidableEq, Repr

/-- What the EC stage hands on (R55, R400): the error count and `NDATA`. -/
structure EcState where
  nerr : Nat := 0
  ndata : BitVec 12 := 0
  deriving DecidableEq, Repr

/-- Bitstream-parser state (R57, R420). `running` is the model's own (log 1): the stage has been entered and its
instruction loop is under way. -/
structure BitsState where
  running : Bool := false
  ver : Nat := 0
  ndata : BitVec 12 := 0
  bitpos : BitVec 15 := 0
  tlen : Nat := 0
  nseg : Nat := 0
  eciActive : Bool := false
  eciValue : BitVec 21 := 0
  fnc1a : Bool := false
  fnc1b : Bool := false
  saSeen : Bool := false
  eciSeen : Bool := false
  sa : BitVec 16 := 0
  app : BitVec 8 := 0
  deriving DecidableEq, Repr

/-! ## The host side -/

/-- What the outside does next (log 1): the engine is given its next step, the host reads or writes (R84, R85), or the
reset input is pulsed (R550), with the memory contents that stand after it (`INIT_MEM`, log 4). -/
inductive HostEvent where
  | engine
  | read (addr : Word) (n : Width)
  | write (addr : Word) (n : Width) (v : Word)
  | rst (initMem : List Host.Cell)
  deriving DecidableEq, Repr

/-! ## The state -/

/-- The whole state of QRDEC. `cfg` is the build, the parameters of R6: the model's own field (log 5), which no
instruction, no host access and no reset changes. -/
structure State where
  cfg : Config
  st : RunState
  stage : Stage
  pass : Bool
  hosterr : Bool
  candOvf : Bool
  cause : Option Exc
  imgWidth : Word
  imgHeight : Word
  hints : Word
  irqEn : Word
  irqPend : BitVec 3
  arg0 : Word
  arg1 : Word
  res : Results
  cmd : Command
  exc0 : Option Exc
  binPath : Bool
  det : DetState
  sym : SymState
  ec : EcState
  bits : BitsState
  mem : List Host.Cell
  host : List HostEvent
  rdata : Word
  deriving DecidableEq, Repr

/-- Why a step can stop with a fault. No instruction's meaning does, and no run from reset reaches one. -/
inductive Fault where
  /-- Raised by the engine step in a state no run reaches: `STATUS.STATE = BUSY` with stage NONE, for which R472 names
  no stage to run. Safe: the model stops where the spec has no state. -/
  | sequencerStuck
  deriving DecidableEq, Repr

/-- Why an instruction can be refused. -/
inductive Refusal where
  /-- The arm of an instruction that has no meaning yet, by its mnemonic. No arm of `exec` uses it any more. Safe. -/
  | notModelled (mnemonic : String)
  deriving DecidableEq, Repr

/-- The state of a build after reset with the given memory contents (R62, R551): every register at its
reset value, IDLE, nothing enabled or pending, no command, all internal state discarded. -/
def State.resetWith (cfg : Config) (mem : List Host.Cell) : State where
  cfg := cfg
  st := .idle
  stage := .none
  pass := false
  hosterr := false
  candOvf := false
  cause := none
  imgWidth := 0
  imgHeight := 0
  hints := 0
  irqEn := 0
  irqPend := 0
  arg0 := 0
  arg1 := 0
  res := {}
  cmd := .none
  exc0 := none
  binPath := false
  det := {}
  sym := {}
  ec := {}
  bits := {}
  mem := mem
  host := []
  rdata := 0

/-- The machine right after reset: the default build (R6; log 5), memory contents `INIT_MEM` at their default, all zero
(R62; log 3). -/
def State.reset : State := State.resetWith Config.hw []

end Sys2Proof.Machine
end

