-- ==== Sys2Proof/Machine/Flags.lean ====
section
/-!
DEFINITION. Codes and flag words: stage, state, kind and detail codes, the words of `STATUS`, `CAUSE`, `RES_FLAGS` and
of the other result registers, the interrupt line, the hint fields (`10_state.md` R24 to R38, `60_exceptions.md` R500,
R501, R520).
-/

namespace Sys2Proof.Machine

open Sys2Proof

/-! ## Codes -/

/-- `STATUS.STATE` values (R25). -/
def runStateCode : RunState → Nat
  | .idle => 0
  | .busy => 1
  | .done => 2
  | .fail => 3
  | .fatal => 4

/-- Stage codes (R27). -/
def stageCode : Stage → Nat
  | .none => 0
  | .bin => 1
  | .det => 2
  | .parse => 3
  | .readcw => 4
  | .ec => 5
  | .bits => 6
  | .fin => 7

/-- Kind codes (R28, R500). -/
def kindCode : Kind → Nat
  | .notFound => 1
  | .format => 2
  | .checksum => 3
  | .precondition => 4

/-- The kind of an exception (R501). -/
def excKind : Exc → Kind
  | .nfBinDegenerate | .nfBinContrast | .nfFewFinders | .nfModuleSize | .nfSampleOob | .nfDegenerateQuad => .notFound
  | .feDimension | .feFormatInfo | .feVersionInfo | .feCwCount | .feMode | .feTruncated | .feValue => .format
  | .feEci | .feHanziSubset => .format
  | .ceUncorrectable => .checksum
  | .pvZeroSize | .pvSizeRange | .pvBadCmd | .pvBadArg | .pvBadHint => .precondition

/-- The stage that raises an exception (R501: 'the `STAGE` is determined by the `DETAIL` too'). -/
def excStage : Exc → Stage
  | .nfBinDegenerate | .nfBinContrast => .bin
  | .nfFewFinders | .nfModuleSize | .nfSampleOob | .nfDegenerateQuad | .feDimension => .det
  | .feFormatInfo | .feVersionInfo => .parse
  | .feCwCount => .readcw
  | .feMode | .feTruncated | .feValue | .feEci | .feHanziSubset => .bits
  | .ceUncorrectable => .ec
  | .pvZeroSize | .pvSizeRange | .pvBadCmd | .pvBadArg | .pvBadHint => .none

/-- The detail codes (R501). -/
def excDetail : Exc → Nat
  | .nfBinDegenerate => 0x01
  | .nfBinContrast => 0x02
  | .nfFewFinders => 0x03
  | .nfModuleSize => 0x04
  | .nfSampleOob => 0x05
  | .nfDegenerateQuad => 0x06
  | .feDimension => 0x10
  | .feFormatInfo => 0x11
  | .feVersionInfo => 0x12
  | .feCwCount => 0x13
  | .feMode => 0x14
  | .feTruncated => 0x15
  | .feValue => 0x16
  | .feEci => 0x17
  | .feHanziSubset => 0x18
  | .ceUncorrectable => 0x20
  | .pvZeroSize => 0x30
  | .pvSizeRange => 0x31
  | .pvBadCmd => 0x32
  | .pvBadArg => 0x33
  | .pvBadHint => 0x34

/-! ## Register words -/

/-- The word of `CAUSE` (R28, R501): `DETAIL << 8 | STAGE << 4 | KIND`, 0 when there is no exception. -/
def causeWord : Option Exc → Word
  | none => 0
  | some e => BitVec.ofNat 32 (excDetail e * 256 + stageCode (excStage e) * 16 + kindCode (excKind e))

/-- The word of `STATUS` (R24). -/
def statusWord (s : State) : Word :=
  BitVec.ofNat 32 (runStateCode s.st + stageCode s.stage * 16 + s.pass.toNat * 256 + s.hosterr.toNat * 512
    + s.candOvf.toNat * 1024)

/-- The word of `RES_FLAGS` (R38). -/
def flagsWord (f : Flags) : Word :=
  BitVec.ofNat 32 (f.mirrored.toNat + f.fnc1First.toNat * 2 + f.fnc1Second.toNat * 4 + f.saPresent.toNat * 8
    + f.alignFound.toNat * 16 + f.binPath.toNat * 32 + f.eciSeen.toNat * 64)

/-- The word of `RES_FORMAT` (R36): `ECBITS` in 1:0, `MASK` in 4:2. -/
def formatWord (r : Results) : Word := BitVec.ofNat 32 (r.ecbits.toNat + r.mask.toNat * 4)

/-- The word of `RES_SA` (R36): `SEQ` in 7:0, `PARITY` in 15:8. -/
def saWord (r : Results) : Word := BitVec.ofNat 32 (r.saSeq.toNat + r.saParity.toNat * 256)

/-- The output `irq` (R29, R520): 1 exactly when an enabled interrupt is pending. -/
def irqLine (s : State) : Bool := (s.irqEn.extractLsb' 0 3 &&& s.irqPend) != 0

/-! ## Hint fields (R33) -/

/-- `HINTS.TRY_HARDER`. -/
def hintTryHarder (h : Word) : Bool := h.getLsbD 0

/-- `HINTS.CHARSET_VALID`. -/
def hintCharsetValid (h : Word) : Bool := h.getLsbD 2

/-- `HINTS.FORMATS_VALID`. -/
def hintFormatsValid (h : Word) : Bool := h.getLsbD 3

/-- `HINTS.FORMATS_QR`. -/
def hintFormatsQr (h : Word) : Bool := h.getLsbD 4

/-- `HINTS.CHARSET`. -/
def hintCharset (h : Word) : BitVec 24 := h.extractLsb' 8 24

/-- An invalid hint configuration (R33): bits 7:6 set, a format list without QR_CODE, or a character set above 28 bits
of the register. -/
def hintsInvalid (h : Word) : Bool :=
  h.extractLsb' 6 2 != 0 || (hintFormatsValid h && !hintFormatsQr h)
    || (hintCharsetValid h && h.extractLsb' 28 4 != 0)

end Sys2Proof.Machine
end

