-- ==== Sys2Proof/Machine/Memory.lean ====
section
/-!
DEFINITION. The address map (`20_memory.md` R86), the memory as one canonical list of (address, byte) pairs, its read
and write operations, the packing of bit matrices (`10_state.md` R47) and element addresses (R87).
-/

namespace Sys2Proof.Machine

open Sys2Proof

/-! ## Regions -/

/-- The regions of R86. -/
inductive Region where
  | regs
  | luma
  | imgbits
  | symbits
  | cw
  | data
  | text
  | seg
  deriving DecidableEq, Repr

/-- The first address of a region (R86), from the platform's `BASE` (D4). -/
def regionBase (cfg : Config) : Region → Nat
  | .regs => cfg.base
  | .luma => cfg.base + 0x01000000
  | .imgbits => cfg.base + 0x02000000
  | .symbits => cfg.base + 0x03000000
  | .cw => cfg.base + 0x03002000
  | .data => cfg.base + 0x03004000
  | .text => cfg.base + 0x03006000
  | .seg => cfg.base + 0x03010000

/-- The size of a region's window in bytes (R86). -/
def regionWindow : Region → Nat
  | .regs => 0x100
  | .luma => 0x1000000
  | .imgbits => 0x1000000
  | .symbits => 0x2000
  | .cw => 0x1000
  | .data => 0x1000
  | .text => 0x2000
  | .seg => 0x18000

/-- The capacity in use, in bytes from the base (R86): bytes of the window beyond it read 0 and ignore writes. The
register block holds no memory byte. -/
def regionCapacity (cfg : Config) : Region → Nat
  | .regs => 0
  | .luma => cfg.maxW * cfg.maxH
  | .imgbits => 4 * ((cfg.maxW + 31) / 32) * cfg.maxH
  | .symbits => 4248
  | .cw => 3706
  | .data => 2956
  | .text => 8192
  | .seg => 94592

/-- All regions. -/
def allRegions : List Region := [.regs, .luma, .imgbits, .symbits, .cw, .data, .text, .seg]

/-- Does the window of the region hold the address? -/
def inWindow (cfg : Config) (r : Region) (a : Nat) : Bool :=
  regionBase cfg r ≤ a && a < regionBase cfg r + regionWindow r

/-- Does the region have storage at the address? -/
def inCapacity (cfg : Config) (r : Region) (a : Nat) : Bool :=
  regionBase cfg r ≤ a && a < regionBase cfg r + regionCapacity cfg r

/-- The region that contains an address, or none: 'Everything else is unmapped' (R86). -/
def regionOf (cfg : Config) (a : Nat) : Option Region :=
  allRegions.find? fun r => inWindow cfg r a

/-- Is there storage at the address, in some memory? -/
def hasStorage (cfg : Config) (a : Nat) : Bool :=
  allRegions.any fun r => inCapacity cfg r a

/-! ## Bytes

The memory is a list of (address, byte) pairs with addresses strictly rising and no zero byte listed: an unlisted byte
reads 0, the default of `INIT_MEM` and the value R84 gives the bytes beyond a capacity (log 3). -/

/-- The byte at an address. -/
def memRead : List Host.Cell → Nat → Byte
  | [], _ => 0#8
  | (b, v) :: t, a => if b = a then v else memRead t a

/-- Are all addresses of the list above `a`, strictly rising, with no zero byte? -/
def memWfFrom : Option Nat → List Host.Cell → Bool
  | _, [] => true
  | lo, (b, v) :: t => (match lo with
      | none => true
      | some l => l < b) && v != 0#8 && memWfFrom (some b) t

/-- The canonical form of the memory. -/
def memWf (m : List Host.Cell) : Bool := memWfFrom none m

/-- Write one byte, keeping the canonical form: a zero is not listed. -/
def memWrite : List Host.Cell → Nat → Byte → List Host.Cell
  | [], a, v => if v = 0#8 then [] else [(a, v)]
  | (b, w) :: t, a, v =>
    if a < b then (if v = 0#8 then (b, w) :: t else (a, v) :: (b, w) :: t)
    else if a = b then (if v = 0#8 then t else (a, v) :: t)
    else (b, w) :: memWrite t a v

/-- Zero the `len` bytes from `a`. -/
def memClear (m : List Host.Cell) (a len : Nat) : List Host.Cell :=
  m.filter fun c => c.1 < a || a + len ≤ c.1

/-- The bytes at consecutive addresses. -/
def memLoad (m : List Host.Cell) (a len : Nat) : List Byte :=
  (List.range len).map fun k => memRead m (a + k)

/-- Zero the whole window of a region (R471 step 4, R476, R510). -/
def clearRegion (cfg : Config) (m : List Host.Cell) (r : Region) : List Host.Cell :=
  memClear m (regionBase cfg r) (regionWindow r)

/-- Store one byte of a region at an offset; there is nothing to store to beyond the capacity in use (R86). -/
def storeByte (cfg : Config) (m : List Host.Cell) (r : Region) (off : Nat) (v : Byte) : List Host.Cell :=
  if off < regionCapacity cfg r then memWrite m (regionBase cfg r + off) v else m

/-- Store consecutive bytes of a region from an offset. -/
def storeBytes (cfg : Config) (m : List Host.Cell) (r : Region) : Nat → List Byte → List Host.Cell
  | _, [] => m
  | off, v :: vs => storeByte cfg (storeBytes cfg m r (off + 1) vs) r off v

/-- The byte of a region at an offset. -/
def regionByte (cfg : Config) (m : List Host.Cell) (r : Region) (off : Nat) : Byte :=
  memRead m (regionBase cfg r + off)

/-- Memory contents given as pairs in any order, brought to the canonical form; what lies at no storage is dropped. A
later pair for one address wins. -/
def memOfCells (cfg : Config) (cells : List Host.Cell) : List Host.Cell :=
  cells.foldl (fun m c => if hasStorage cfg c.1 then memWrite m c.1 c.2 else m) []

/-! ## Little-endian words (R80) -/

/-- The bytes of a 32-bit word, lowest address first. -/
def wordBytes (v : Word) : List Byte :=
  [v.extractLsb' 0 8, v.extractLsb' 8 8, v.extractLsb' 16 8, v.extractLsb' 24 8]

/-- The word of the bytes given lowest address first, zero-extended. -/
def bytesWord (bs : List Byte) : Word :=
  bs.foldr (fun b w => (w <<< 8) ||| b.setWidth 32) 0

/-- The number of bytes of an access (R82). -/
def widthBytes : Width → Nat
  | .b1 => 1
  | .b2 => 2
  | .b4 => 4

/-! ## Elements (R40 to R47, R87) -/

/-- `LUMA[x, y]` for a frame of width `w` (R40). -/
def lumaAt (cfg : Config) (m : List Host.Cell) (w x y : Nat) : Nat :=
  (regionByte cfg m .luma (y * w + x)).toNat

/-- The 32-bit words of one row of a bit matrix of width `w` (R47). -/
def rowWords (w : Nat) : Nat := (w + 31) / 32

/-- The bit for column `x`, row `y` of a packed matrix of width `w` (R47): bit `x mod 32` of word
`y * rowWords + x div 32`, little-endian, so bit `x mod 8` of byte `4 * y * rowWords + x div 8`. -/
def matrixBit (cfg : Config) (m : List Host.Cell) (r : Region) (w x y : Nat) : Bool :=
  (regionByte cfg m r (4 * (y * rowWords w) + x / 8)).getLsbD (x % 8)

/-- One packed row (R47): `rowWords` words as bytes, the bits for columns at or beyond the width 0. -/
def packRow (row : List Bool) (w : Nat) : List Byte :=
  (List.range (4 * rowWords w)).map fun k =>
    (List.range 8).foldl (fun v i => if row.getD (8 * k + i) false then v ||| (1#8 <<< i) else v) 0

/-- A packed matrix (R47). -/
def packMatrix (rows : List (List Bool)) (w : Nat) : List Byte :=
  rows.flatMap fun row => packRow row w

/-- Stream bit `p` of `DATA` (R9, R421): bit `7 - (p mod 8)` of byte `p div 8`. -/
def dataBit (cfg : Config) (m : List Host.Cell) (p : Nat) : Bool :=
  (regionByte cfg m .data (p / 8)).getLsbD (7 - p % 8)

end Sys2Proof.Machine
end

