-- ==== Sys2Proof/Machine/Registers.lean ====
section
/-!
DEFINITION. The register map and the host's accesses (`10_state.md` R21, R22, R29 to R39; `20_memory.md` R82 to R93).
A write to `CMD` is the one access that is not here: it issues a command (Machine/Step.lean).
-/

namespace Sys2Proof.Machine

open Sys2Proof

/-- The registers of R39 by name; the two-word values by which word. -/
inductive Reg where
  | id
  | cmd
  | status
  | cause
  | imgWidth
  | imgHeight
  | hints
  | irqEn
  | irqPend
  | arg0
  | arg1
  | resDim
  | resVersion
  | resFormat
  | resFlags
  | resTextLen
  | resRawLen
  | resNumBits
  | resErrors
  | resNseg
  | resSa
  | resFnc1App
  | resNpoints
  | resNcw
  | resBitpos
  | resNcand
  | ptLow (point : Fin 4) (isY : Bool)
  | ptHigh (point : Fin 4) (isY : Bool)
  | moduleSizeLow
  | moduleSizeHigh
  deriving DecidableEq, Repr

/-- The register at an offset of the block (R39); none where the offset is reserved. -/
def regAt (off : Nat) : Option Reg :=
  match off with
  | 0x00 => some .id
  | 0x04 => some .cmd
  | 0x08 => some .status
  | 0x0C => some .cause
  | 0x10 => some .imgWidth
  | 0x14 => some .imgHeight
  | 0x18 => some .hints
  | 0x1C => some .irqEn
  | 0x20 => some .irqPend
  | 0x24 => some .arg0
  | 0x28 => some .arg1
  | 0x30 => some .resDim
  | 0x34 => some .resVersion
  | 0x38 => some .resFormat
  | 0x3C => some .resFlags
  | 0x40 => some .resTextLen
  | 0x44 => some .resRawLen
  | 0x48 => some .resNumBits
  | 0x4C => some .resErrors
  | 0x50 => some .resNseg
  | 0x54 => some .resSa
  | 0x58 => some .resFnc1App
  | 0x5C => some .resNpoints
  | 0x60 => some .resNcw
  | 0x64 => some .resBitpos
  | 0x68 => some .resNcand
  | 0x80 => some (.ptLow 0 false)
  | 0x84 => some (.ptHigh 0 false)
  | 0x88 => some (.ptLow 0 true)
  | 0x8C => some (.ptHigh 0 true)
  | 0x90 => some (.ptLow 1 false)
  | 0x94 => some (.ptHigh 1 false)
  | 0x98 => some (.ptLow 1 true)
  | 0x9C => some (.ptHigh 1 true)
  | 0xA0 => some (.ptLow 2 false)
  | 0xA4 => some (.ptHigh 2 false)
  | 0xA8 => some (.ptLow 2 true)
  | 0xAC => some (.ptHigh 2 true)
  | 0xB0 => some (.ptLow 3 false)
  | 0xB4 => some (.ptHigh 3 false)
  | 0xB8 => some (.ptLow 3 true)
  | 0xBC => some (.ptHigh 3 true)
  | 0xC0 => some .moduleSizeLow
  | 0xC4 => some .moduleSizeHigh
  | _ => none

/-- A point register (R37). -/
def pointReg (r : Results) : Fin 4 → PointReg
  | 0 => r.pt0
  | 1 => r.pt1
  | 2 => r.pt2
  | 3 => r.pt3

/-- One coordinate of a point (R37). -/
def pointCoord (r : Results) (p : Fin 4) (isY : Bool) : BitVec 64 :=
  if isY then (pointReg r p).y else (pointReg r p).x

/-- What a read of a register returns (R21, R30, R35): the write-only `CMD` reads 0. -/
def readReg (s : State) : Reg → Word
  | .id => 0x51524431
  | .cmd => 0
  | .status => statusWord s
  | .cause => causeWord s.cause
  | .imgWidth => s.imgWidth
  | .imgHeight => s.imgHeight
  | .hints => s.hints
  | .irqEn => s.irqEn
  | .irqPend => s.irqPend.setWidth 32
  | .arg0 => s.arg0
  | .arg1 => s.arg1
  | .resDim => s.res.dim.setWidth 32
  | .resVersion => s.res.version.setWidth 32
  | .resFormat => formatWord s.res
  | .resFlags => flagsWord s.res.flags
  | .resTextLen => s.res.textLen.setWidth 32
  | .resRawLen => s.res.rawLen.setWidth 32
  | .resNumBits => s.res.numBits.setWidth 32
  | .resErrors => s.res.errors.setWidth 32
  | .resNseg => s.res.nseg.setWidth 32
  | .resSa => saWord s.res
  | .resFnc1App => s.res.fnc1App.setWidth 32
  | .resNpoints => s.res.npoints.setWidth 32
  | .resNcw => s.res.ncw.setWidth 32
  | .resBitpos => s.res.bitpos.setWidth 32
  | .resNcand => s.res.ncand.setWidth 32
  | .ptLow p y => (pointCoord s.res p y).extractLsb' 0 32
  | .ptHigh p y => (pointCoord s.res p y).extractLsb' 32 32
  | .moduleSizeLow => s.res.moduleSize.extractLsb' 0 32
  | .moduleSizeHigh => s.res.moduleSize.extractLsb' 32 32

/-- The sticky report of an ignored access (R24). -/
def setHosterr (s : State) : State := { s with hosterr := true }

/-- A write of an operand register: ignored, with `HOSTERR`, while BUSY (R22). -/
def writeOperand (s t : State) : State := if s.st = .busy then setHosterr s else t

/-- A host write of a register other than `CMD` (R21, R22, R29): operand registers take all 32 bits unless BUSY,
`IRQ_EN` in every state, `IRQ_PEND` clears the bits written 1, everything else is read-only: ignored, `HOSTERR`. -/
def writeReg (s : State) (r : Reg) (v : Word) : State :=
  match r with
  | .imgWidth => writeOperand s { s with imgWidth := v }
  | .imgHeight => writeOperand s { s with imgHeight := v }
  | .hints => writeOperand s { s with hints := v }
  | .arg0 => writeOperand s { s with arg0 := v }
  | .arg1 => writeOperand s { s with arg1 := v }
  | .irqEn => { s with irqEn := v }
  | .irqPend => { s with irqPend := s.irqPend &&& ~~~(v.extractLsb' 0 3) }
  | _ => setHosterr s

/-- An access that is refused: nothing happens but `HOSTERR`; a read returns 0 (R84). -/
def refusedRead (s : State) : State := { setHosterr s with rdata := 0 }

/-- `MemRead(addr, n)` (R84). The value returned to the host stands in `rdata` (log 2). -/
def hostRead (s : State) (addr : Word) (n : Width) : State :=
  let a := addr.toNat
  if a % widthBytes n ≠ 0 then refusedRead s
  else
    match regionOf s.cfg a with
    | none => refusedRead s
    | some .regs =>
      if n ≠ .b4 then refusedRead s
      else
        match regAt (a - s.cfg.base) with
        | none => refusedRead s
        | some r => { s with rdata := readReg s r }
    | some _ =>
      if s.st = .busy then refusedRead s
      else { s with rdata := bytesWord (memLoad s.mem a (widthBytes n)) }

/-- May the host write the region (R82, R85)? -/
def hostWritable : Region → Bool
  | .regs => false
  | .luma => true
  | .imgbits => true
  | .symbits => true
  | .cw => true
  | .data => true
  | .text => false
  | .seg => false

/-- `MemWrite(addr, n, v)` (R85) for everything but a legal write to `CMD`. -/
def hostWrite (s : State) (addr : Word) (n : Width) (v : Word) : State :=
  let a := addr.toNat
  if a % widthBytes n ≠ 0 then setHosterr s
  else
    match regionOf s.cfg a with
    | none => setHosterr s
    | some .regs =>
      if n ≠ .b4 then setHosterr s
      else
        match regAt (a - s.cfg.base) with
        | none => setHosterr s
        | some r => writeReg s r v
    | some r =>
      if !hostWritable r then setHosterr s
      else if s.st = .busy then setHosterr s
      else { s with mem := storeBytes s.cfg s.mem r (a - regionBase s.cfg r) ((wordBytes v).take (widthBytes n)) }

/-- Is this the access that issues a command: a 32-bit write to `CMD` (R35)? -/
def isCmdWrite (s : State) (addr : Word) (n : Width) : Bool :=
  addr.toNat = s.cfg.base + 4 && n = .b4

end Sys2Proof.Machine
end

