-- ==== Sys2Proof/Machine/Ops.lean ====
section
/-!
DEFINITION. The shared operations of the sequencer: acceptance, taking an exception, the mirror edge, the end step
(`47_sequencer_commands.md` R470 to R478, `60_exceptions.md` R510, R520), and the helpers of the segment instructions
(`46_bitstream_parser.md` R420 to R424).
-/

namespace Sys2Proof.Machine

open Sys2Proof

/-! ## Commands and their stages -/

/-- The first stage of a command (R472). -/
def firstStage : Command → Stage
  | .none => .none
  | .decode => .bin
  | .binarize => .bin
  | .detect => .det
  | .decodesym => .parse
  | .rsdecode => .ec
  | .parsebits => .bits
  | .reserved => .none

/-- The stage after one that raised nothing (R472). DECODE and DECODESYM run on to BITS, a unit command ends. -/
def nextStage (c : Command) (s : Stage) : Stage :=
  match c, s with
  | .decode, .bin => .det
  | .decode, .det => .parse
  | .decode, .parse => .readcw
  | .decode, .readcw => .ec
  | .decode, .ec => .bits
  | .decodesym, .parse => .readcw
  | .decodesym, .readcw => .ec
  | .decodesym, .ec => .bits
  | _, _ => .fin

/-- The output memories of a command (R471): zeroed at acceptance and on an exception. -/
def outputs : Command → List Region
  | .none => []
  | .decode => [.imgbits, .symbits, .cw, .data, .text, .seg]
  | .binarize => [.imgbits]
  | .detect => [.symbits]
  | .decodesym => [.cw, .data, .text, .seg]
  | .rsdecode => []
  | .parsebits => [.text, .seg]
  | .reserved => []

/-- Zero the windows of some regions. -/
def clearRegions (cfg : Config) (m : List Host.Cell) (rs : List Region) : List Host.Cell :=
  rs.foldl (clearRegion cfg) m

/-- The dimension the matrix stages work with (R330): `ARG0` for DECODESYM, the detector's otherwise. -/
def symDim (s : State) : Nat := if s.cmd = .decodesym then s.arg0.toNat else s.det.dim

/-! ## Acceptance (R470 to R473) -/

/-- Does the command check the hints (R473, check 2)? -/
def checksHints : Command → Bool
  | .decode => true
  | .detect => true
  | .decodesym => true
  | .parsebits => true
  | .none => false
  | .binarize => false
  | .rsdecode => false
  | .reserved => false

/-- Does the command check the frame size (R473, check 3)? -/
def checksSize : Command → Bool
  | .decode => true
  | .binarize => true
  | .detect => true
  | .none => false
  | .decodesym => false
  | .rsdecode => false
  | .parsebits => false
  | .reserved => false

/-- Are the arguments of a unit command in range (R473, check 4)? -/
def argsOk (c : Command) (arg0 arg1 : Word) : Bool :=
  match c with
  | .decodesym => 21 ≤ arg0.toNat && arg0.toNat ≤ 177 && arg0.toNat % 4 = 1
  | .rsdecode => 1 ≤ arg1.toNat && arg1.toNat ≤ arg0.toNat && arg0.toNat ≤ 255
  | .parsebits =>
    1 ≤ arg0.toNat && arg0.toNat ≤ 2956 && arg1.extractLsb' 10 22 = 0
      && 1 ≤ (arg1.extractLsb' 0 8).toNat && (arg1.extractLsb' 0 8).toNat ≤ 40
  | .none => true
  | .decode => true
  | .binarize => true
  | .detect => true
  | .reserved => true

/-- The acceptance checks in their fixed order (R473): the first that fails gives the exception. -/
def acceptCheck (c : Command) (s : State) : Option Exc :=
  if c = .reserved then some .pvBadCmd
  else if checksHints c && hintsInvalid s.hints then some .pvBadHint
  else if checksSize c && (s.imgWidth = 0 || s.imgHeight = 0) then some .pvZeroSize
  else if checksSize c && (s.cfg.maxW < s.imgWidth.toNat || s.cfg.maxH < s.imgHeight.toNat) then some .pvSizeRange
  else if argsOk c s.arg0 s.arg1 then none
  else some .pvBadArg

/-- All per-attempt internal state (R50 to R57) at its initial value, for a command about to run or for none. -/
def freshInternal (s : State) (c : Command) : State :=
  { s with
    cmd := c
    exc0 := none
    binPath := false
    det := {}
    sym := {}
    ec := {}
    bits := {} }

/-- Steps 1 to 3 of R471: fresh internal state, `PASS`, `CAND_OVF` and `CAUSE` cleared, result registers zeroed. -/
def freshAttempt (s : State) (c : Command) : State :=
  { freshInternal s c with
    pass := false
    candOvf := false
    cause := none
    res := {} }

/-- Steps 1 to 4 of R471: also every byte of the whole window of every output memory zeroed. -/
def prepare (s : State) (c : Command) : State :=
  { freshAttempt s c with mem := clearRegions s.cfg s.mem (outputs c) }

/-! ## Taking an exception (R510) -/

/-- The interrupt bit of an exception (R510, R520): FAIL for the three recoverable kinds, FATAL for a precondition. -/
def excIrq (e : Exc) : BitVec 3 :=
  match excKind e with
  | .notFound => 2
  | .format => 2
  | .checksum => 2
  | .precondition => 4

/-- The outcome state of an exception (R500, R510). -/
def excState (e : Exc) : RunState :=
  match excKind e with
  | .notFound => .fail
  | .format => .fail
  | .checksum => .fail
  | .precondition => .fatal

/-- The command is over by exception (R510): in pass 1 the first pass's exception is the one reported (R478); every
output memory of the command is zeroed, all internal state discarded, `CAUSE`, `STAGE`, `STATE` and an interrupt bit
written. `PASS`, `CAND_OVF` and `HOSTERR` keep their values; the result registers are 0 already (R58) and stay so. -/
def endWithExc (s : State) (e0 : Exc) : State :=
  let e := if s.pass then s.exc0.getD e0 else e0
  { freshInternal s .none with
    mem := clearRegions s.cfg s.mem (outputs s.cmd)
    res := {}
    cause := some e
    stage := excStage e
    st := excState e
    irqPend := s.irqPend ||| excIrq e }

/-- Is the stage one of the four of the document's Decoder (R476)? -/
def inDecoder : Stage → Bool
  | .parse => true
  | .readcw => true
  | .ec => true
  | .bits => true
  | .none => false
  | .bin => false
  | .det => false
  | .fin => false

/-- Does the exception take the mirror edge (R476): DECODE or DECODESYM, pass 0, of kind Format or Checksum, raised by
PARSE, READCW, EC or BITS? -/
def takesMirror (s : State) (e : Exc) : Bool :=
  (s.cmd = .decode || s.cmd = .decodesym) && !s.pass && (excKind e = .format || excKind e = .checksum)
    && inDecoder (excStage e)

/-- The mirror edge (R476): the exception is latched, pass 1 begins at PARSE on the transpose of the same matrix. -/
def mirrorEdge (s : State) (e : Exc) : State :=
  { s with
    exc0 := some e
    pass := true
    sym := {}
    ec := {}
    bits := {}
    mem := clearRegions s.cfg s.mem [.cw, .data, .text, .seg]
    stage := .parse }

/-- `raise`: the mirror edge where R476 takes it, else the end of the command (R510). -/
def raise (s : State) (e : Exc) : State :=
  if takesMirror s e then mirrorEdge s e else endWithExc s e

/-! ## Issue and acceptance -/

/-- The acceptance step of a command other than NOP and CLEAR (R471, R473): prepared, then checked; a failing check ends
it at once, else the engine is BUSY at the first stage. -/
def accept (s : State) (c : Command) : State :=
  match acceptCheck c s with
  | some e => endWithExc (prepare s c) e
  | none => { prepare s c with st := .busy, stage := firstStage c }

/-- A word written to `CMD` (R470): ignored with `HOSTERR` while BUSY, whatever it is; otherwise accepted. -/
def issue (s accepted : State) : State := if s.st = .busy then setHosterr s else accepted

/-- CLEAR within its acceptance step (R488): after steps 1 to 3 of R471, `STATUS`, `CAUSE` and `IRQ_PEND` are 0. -/
def clearStatus (s : State) : State :=
  { freshAttempt s .none with st := .idle, stage := .none, hosterr := false, irqPend := 0 }

/-! ## The end step (R474, R475) -/

/-- The point register of a pattern (R37). -/
def patternReg (p : Pattern) : PointReg := { x := p.x.toBits, y := p.y.toBits }

/-- Does the command's column of R475 list the detector's registers? -/
def reportsDet : Command → Bool
  | .decode => true
  | .detect => true
  | _ => false

/-- Does the command's column of R475 list the matrix parser's registers? -/
def reportsSym : Command → Bool
  | .decode => true
  | .decodesym => true
  | _ => false

/-- Does the command's column of R475 list the bitstream parser's registers? -/
def reportsBits : Command → Bool
  | .decode => true
  | .decodesym => true
  | .parsebits => true
  | _ => false

/-- `NDATA`, the bytes of `DATA` in use: `ARG0` for PARSEBITS (R475, R486), else what EC handed on (R357). -/
def dataLength (s : State) : BitVec 12 := if s.cmd = .parsebits then s.arg0.extractLsb' 0 12 else s.ec.ndata

/-- The version that selects the count widths: `ARG1[7:0]` for PARSEBITS (R486), else the version of record (R342). -/
def streamVersion (s : State) : Nat := if s.cmd = .parsebits then (s.arg1.extractLsb' 0 8).toNat else s.sym.ver

/-- The registers of the BITS rows of R475, from the pending values of R450. -/
def bitsResults (s : State) (r : Results) : Results :=
  if reportsBits s.cmd then
    { r with
      textLen := BitVec.ofNat 14 s.bits.tlen
      nseg := BitVec.ofNat 13 s.bits.nseg
      bitpos := s.bits.bitpos
      saSeq := s.bits.sa.extractLsb' 0 8
      saParity := s.bits.sa.extractLsb' 8 8
      fnc1App := s.bits.app
      rawLen := dataLength s
      numBits := BitVec.ofNat 15 (8 * (dataLength s).toNat)
      flags :=
        { r.flags with
          fnc1First := s.bits.fnc1a
          fnc1Second := s.bits.fnc1b
          saPresent := s.bits.saSeen
          eciSeen := s.bits.eciSeen } }
  else r

/-- The registers of the DET rows of R475 (R37, R283, R286, R296, R247). -/
def detResults (s : State) (r : Results) : Results :=
  if reportsDet s.cmd then
    { r with
      dim := BitVec.ofNat 8 s.det.dim
      npoints := if s.det.ap.isSome then 4 else 3
      pt0 := patternReg s.det.bl
      pt1 := patternReg s.det.tl
      pt2 := patternReg s.det.tr
      pt3 := (s.det.ap.map patternReg).getD {}
      moduleSize := s.det.ms.toBits
      ncand := BitVec.ofNat 7 s.det.cand.length
      flags := { r.flags with alignFound := s.det.ap.isSome } }
  else r

/-- The registers of the PARSE, READCW and EC rows of R475. -/
def symResults (s : State) (r : Results) : Results :=
  if reportsSym s.cmd then
    { r with
      dim := BitVec.ofNat 8 (symDim s)
      version := BitVec.ofNat 6 s.sym.ver
      ecbits := s.sym.ecbits
      mask := s.sym.mask
      errors := BitVec.ofNat 12 s.ec.nerr
      ncw := BitVec.ofNat 12 s.sym.ncw
      flags := { r.flags with mirrored := s.pass } }
  else r

/-- The registers the unit commands take from their arguments or alone (R475: RSDECODE, PARSEBITS), and `BIN_PATH`. -/
def unitResults (s : State) (r : Results) : Results :=
  match s.cmd with
  | .rsdecode => { r with errors := BitVec.ofNat 12 s.ec.nerr, ncw := s.arg0.extractLsb' 0 12 }
  | .parsebits => { r with version := s.arg1.extractLsb' 0 6, ecbits := s.arg1.extractLsb' 8 2 }
  | .decode => { r with flags := { r.flags with binPath := s.binPath } }
  | .binarize => { r with flags := { r.flags with binPath := s.binPath } }
  | .none => r
  | .detect => r
  | .decodesym => r
  | .reserved => r

/-- The result registers a successful command ends with (R475): a register not listed for it stays 0. -/
def finalResults (s : State) : Results := bitsResults s (symResults s (detResults s (unitResults s {})))

/-- The end step (R474): the results written, all in one step; the internal state ends with the command (R20). -/
def endStep (s : State) : State :=
  { freshInternal s .none with
    res := finalResults s
    cause := none
    stage := .fin
    st := .done
    irqPend := s.irqPend ||| 1 }

/-! ## Helpers of the segment level (R420 to R424) -/

/-- The stage BITS is entered (R420): the cursor at 0, nothing emitted, no character set active. -/
def enterBits (s : State) : State :=
  { s with bits := { running := true, ver := streamVersion s, ndata := dataLength s } }

/-- The loop of R422 stops: the stage is over, the pending results (R450) stay for the end step. -/
def finishBits (s : State) : State :=
  { s with bits := { s.bits with running := false }, stage := nextStage s.cmd .bits }

/-- `END` of the stream (R26, R420). -/
def streamEnd (s : State) : Nat := 8 * s.bits.ndata.toNat

/-- `emit` for each byte in turn (R424): appended to `TEXT`. -/
def emitBytes (s : State) (bs : List Byte) : State :=
  { s with
    mem := storeBytes s.cfg s.mem .text s.bits.tlen bs
    bits := { s.bits with tlen := s.bits.tlen + bs.length } }

/-- The 16 bytes of a segment-table entry (R46, R424). -/
def segEntry (mode cskind : Nat) (value : Word) (offset length : Nat) : List Byte :=
  wordBytes (BitVec.ofNat 32 (mode + cskind * 16)) ++ wordBytes value ++ wordBytes (BitVec.ofNat 32 offset)
    ++ wordBytes (BitVec.ofNat 32 length)

/-- `seg(mode, cskind, value, offset, length)` (R424): one entry appended to `SEG`. -/
def appendSeg (s : State) (mode cskind : Nat) (value : Word) (offset length : Nat) : State :=
  { s with
    mem := storeBytes s.cfg s.mem .seg (16 * s.bits.nseg) (segEntry mode cskind value offset length)
    bits := { s.bits with nseg := s.bits.nseg + 1 } }

/-- The bit cursor moves past an instruction of `n` bits (R26, R421): never backward, never past `END`, for which the
decoder has checked that the bits are there. -/
def advance (s : State) (n : Nat) : State :=
  { s with bits := { s.bits with bitpos := s.bits.bitpos + BitVec.ofNat 15 n } }

/-- `CSKIND` codes (R48). -/
def csDefault : Nat := 0
/-- `CS_HINT` (R48). -/
def csHint : Nat := 1
/-- `CS_ECI` (R48). -/
def csEci : Nat := 2
/-- `CS_ASCII` (R48). -/
def csAscii : Nat := 3
/-- `CS_SJIS` (R48). -/
def csSjis : Nat := 4
/-- `CS_GB2312` (R48). -/
def csGb2312 : Nat := 5

/-- An instruction that appends `bs` to `TEXT` and one entry to `SEG` (R431 to R436): the entry's offset is the length
of the text before, its length the number of bytes appended; then the cursor moves on. -/
def textSegment (s : State) (mode cskind : Nat) (value : Word) (bs : List Byte) (n : Nat) : State :=
  advance (appendSeg (emitBytes s bs) mode cskind value s.bits.tlen bs.length) n

/-- An instruction that appends only an entry of length 0 to `SEG` (R445 to R448); then the cursor moves on. -/
def bareSegment (s : State) (mode : Nat) (value : Word) (n : Nat) : State :=
  advance (appendSeg s mode csDefault value s.bits.tlen 0) n

end Sys2Proof.Machine
end

