-- ==== Sys2Proof/Machine/Commands.lean ====
section
/-!
DEFINITION. The meanings of the host commands (`47_sequencer_commands.md` R470 to R488, `30_encoding.md` R124): what a
word written to `CMD` does in its acceptance step. The stages an accepted command then runs are Machine/Stages.lean.
-/

namespace Sys2Proof.Machine

open Sys2Proof

/-- NOP (R480): nothing changes. -/
def execNop (s : State) : Host.Outcome State Fault Refusal := .next (issue s s)

/-- DECODE (R481). -/
def execDecode (s : State) : Host.Outcome State Fault Refusal := .next (issue s (accept s .decode))

/-- BINARIZE (R482). -/
def execBinarize (s : State) : Host.Outcome State Fault Refusal := .next (issue s (accept s .binarize))

/-- DETECT (R483). -/
def execDetect (s : State) : Host.Outcome State Fault Refusal := .next (issue s (accept s .detect))

/-- DECODESYM (R484). -/
def execDecodesym (s : State) : Host.Outcome State Fault Refusal := .next (issue s (accept s .decodesym))

/-- RSDECODE (R485). -/
def execRsdecode (s : State) : Host.Outcome State Fault Refusal := .next (issue s (accept s .rsdecode))

/-- PARSEBITS (R486). -/
def execParsebits (s : State) : Host.Outcome State Fault Refusal := .next (issue s (accept s .parsebits))

/-- CLEAR (R488). -/
def execClear (s : State) : Host.Outcome State Fault Refusal := .next (issue s (clearStatus s))

/-- The command word 0x8 (R124, R505): FATAL with `PV_BAD_CMD`. -/
def execReservedCmd8 (s : State) : Host.Outcome State Fault Refusal := .next (issue s (accept s .reserved))

/-- The command word 0x9 (R124, R505). -/
def execReservedCmd9 (s : State) : Host.Outcome State Fault Refusal := .next (issue s (accept s .reserved))

/-- The command word 0xA (R124, R505). -/
def execReservedCmdA (s : State) : Host.Outcome State Fault Refusal := .next (issue s (accept s .reserved))

/-- The command word 0xB (R124, R505). -/
def execReservedCmdB (s : State) : Host.Outcome State Fault Refusal := .next (issue s (accept s .reserved))

/-- The command word 0xC (R124, R505). -/
def execReservedCmdC (s : State) : Host.Outcome State Fault Refusal := .next (issue s (accept s .reserved))

/-- The command word 0xD (R124, R505). -/
def execReservedCmdD (s : State) : Host.Outcome State Fault Refusal := .next (issue s (accept s .reserved))

/-- The command word 0xE (R124, R505). -/
def execReservedCmdE (s : State) : Host.Outcome State Fault Refusal := .next (issue s (accept s .reserved))

/-- The command word 0xF (R124, R505). -/
def execReservedCmdF (s : State) : Host.Outcome State Fault Refusal := .next (issue s (accept s .reserved))

/-- A command word with a bit of 31:4 set (R124, R505), whatever it is. -/
def execReservedCmdNonzeroUpper (_op : BitVec 4) (_upper : BitVec 28) (s : State) :
    Host.Outcome State Fault Refusal := .next (issue s (accept s .reserved))

end Sys2Proof.Machine
end

