-- ==== Sys2Proof/Machine/Operands.lean ====
section
/-!
DEFINITION. The operand forms of the segment level: count widths by mode and version tier, and payload lengths
(`30_encoding.md` R132, R133, R144), plus the bit-string helpers the encoder and the reader of fields share (R9).
-/

namespace Sys2Proof

/-- The tier of a version (R132): 0 for 1 to 9, 1 for 10 to 26, 2 from 27. -/
def tierOf (ver : Nat) : Tier :=
  if ver ≤ 9 then .low else if ver ≤ 26 then .mid else .high

/-- The width `cw` of the `COUNT` field (R132). -/
def countWidth : CountedMode → Tier → Nat
  | .numeric, .low => 10
  | .numeric, .mid => 12
  | .numeric, .high => 14
  | .alphanumeric, .low => 9
  | .alphanumeric, .mid => 11
  | .alphanumeric, .high => 13
  | .byte, .low => 8
  | .byte, .mid => 16
  | .byte, .high => 16
  | .kanji, .low => 8
  | .kanji, .mid => 10
  | .kanji, .high => 12
  | .hanzi, .low => 8
  | .hanzi, .mid => 10
  | .hanzi, .high => 12

/-- The payload length in bits of `c` characters (R133). -/
def payloadBits (m : CountedMode) (c : Nat) : Nat :=
  match m with
  | .numeric => 10 * (c / 3) + (if c % 3 = 2 then 7 else if c % 3 = 1 then 4 else 0)
  | .alphanumeric => 11 * (c / 2) + 6 * (c % 2)
  | .byte => 8 * c
  | .kanji => 13 * c
  | .hanzi => 13 * c

/-- The length in bits of an ECI designator (R139). -/
def eciBits : EciDesignator → Nat
  | .one _ => 8
  | .two _ => 16
  | .three _ => 24
  | .illegal _ => 8

/-- The assignment value of an ECI designator (R139); none for the illegal form. -/
def eciValue : EciDesignator → Option (BitVec 21)
  | .one v => some (v.setWidth 21)
  | .two v => some (v.setWidth 21)
  | .three v => some v
  | .illegal _ => none

/-- The bits of the `n`-bit field with value `v`, most significant first (R9). -/
def fieldBits (n v : Nat) : List Bool :=
  (List.range n).map fun k => v.testBit (n - 1 - k)

/-- The value of a bit string read most significant bit first (R9). -/
def fieldValue (bits : List Bool) : Nat :=
  bits.foldl (fun v b => 2 * v + b.toNat) 0

end Sys2Proof
end

