-- ==== Sys2Proof/WellFormed.lean ====
section
/-!
DEFINITION. Which instruction terms the encodings of `30_encoding.md` admit: exactly the terms the decoder can give.
A term with an out-of-range digit group, an illegal ECI prefix or a bad HANZI subset IS well formed: it has an
encoding, and executing it raises the exception the spec names.
-/

namespace Sys2Proof

/-- The groups a reader of `c` digits takes from the stream (R134, R431): 10-bit groups, then a 7- or 4-bit one.
Reading stops after a group that is out of range, since `FE_VALUE` is raised there. -/
def numGroupsOk : Nat → List Nat → Bool
  | 0, gs => gs.isEmpty
  | 1, gs => match gs with
    | [x] => x < 16
    | _ => false
  | 2, gs => match gs with
    | [x] => x < 128
    | _ => false
  | c + 3, gs => match gs with
    | x :: xs => x < 1024 && (if x ≥ 1000 then xs.isEmpty else numGroupsOk c xs)
    | [] => false

/-- The groups a reader of `c` alphanumeric symbols takes (R135, R433). -/
def alnumGroupsOk : Nat → List Nat → Bool
  | 0, gs => gs.isEmpty
  | 1, gs => match gs with
    | [x] => x < 64
    | _ => false
  | c + 2, gs => match gs with
    | x :: xs => x < 2048 && (if x ≥ 2025 then xs.isEmpty else alnumGroupsOk c xs)
    | [] => false

/-- Well-formedness at a version tier, which fixes the count widths (R132). Commands have no operand fields (R120);
the class `reservedCmdNonzeroUpper` needs a set upper bit (R124). -/
def Instr.wf (t : Tier) : Instr → Bool
  | .reservedCmdNonzeroUpper _ upper => upper != 0
  | .numeric c gs => c < 2 ^ countWidth .numeric t && numGroupsOk c gs
  | .alphanumeric c gs => c < 2 ^ countWidth .alphanumeric t && alnumGroupsOk c gs
  | .byte p => p.length < 2 ^ countWidth .byte t
  | .kanji k => k.length < 2 ^ countWidth .kanji t
  | .hanzi subset k => if subset = 1 then k.length < 2 ^ countWidth .hanzi t else k.isEmpty
  | .nop | .decode | .binarize | .detect | .decodesym | .rsdecode | .parsebits | .clear => true
  | .reservedCmd8 | .reservedCmd9 | .reservedCmdA | .reservedCmdB => true
  | .reservedCmdC | .reservedCmdD | .reservedCmdE | .reservedCmdF => true
  | .terminator | .structuredAppend _ _ | .fnc1First | .eci _ | .fnc1Second _ => true
  | .reservedMode6 | .reservedModeA | .reservedModeB => true
  | .reservedModeC | .reservedModeE | .reservedModeF => true

/-- Is this an instruction of the command level (R2)? -/
def Instr.isCommand : Instr → Bool
  | .nop | .decode | .binarize | .detect | .decodesym | .rsdecode | .parsebits | .clear => true
  | .reservedCmd8 | .reservedCmd9 | .reservedCmdA | .reservedCmdB => true
  | .reservedCmdC | .reservedCmdD | .reservedCmdE | .reservedCmdF => true
  | .reservedCmdNonzeroUpper _ _ => true
  | .terminator | .numeric _ _ | .alphanumeric _ _ | .structuredAppend _ _ | .byte _ | .fnc1First => false
  | .eci _ | .kanji _ | .fnc1Second _ | .hanzi _ _ => false
  | .reservedMode6 | .reservedModeA | .reservedModeB => false
  | .reservedModeC | .reservedModeE | .reservedModeF => false

end Sys2Proof
end

