-- ==== Sys2Proof/Decode.lean ====
section
/-!
DEFINITION. The decoder of both levels and, after it, the encoder (`30_encoding.md` R120 to R144). The decoder is
total: a command word always decodes (R124 makes the rest reserved), a segment either decodes or is rejected by name.
The encoder is written from the same tables and is the inverse the tests and statements hold the decoder against.
-/

namespace Sys2Proof

/-! ## Level 1: command words -/

/-- The instruction a command word selects (R122, R124). Any set bit in 31:4 makes the word reserved whatever `OP` is. -/
def decodeCommand (w : BitVec 32) : Instr :=
  if w.extractLsb' 4 28 != 0 then .reservedCmdNonzeroUpper (w.extractLsb' 0 4) (w.extractLsb' 4 28)
  else
    match (w.extractLsb' 0 4).toNat with
    | 0 => .nop
    | 1 => .decode
    | 2 => .binarize
    | 3 => .detect
    | 4 => .decodesym
    | 5 => .rsdecode
    | 6 => .parsebits
    | 7 => .clear
    | 8 => .reservedCmd8
    | 9 => .reservedCmd9
    | 10 => .reservedCmdA
    | 11 => .reservedCmdB
    | 12 => .reservedCmdC
    | 13 => .reservedCmdD
    | 14 => .reservedCmdE
    | _ => .reservedCmdF

/-! ## Level 2: segments -/

/-- Why no instruction stands at the cursor. -/
inductive Reject where
  /-- Fewer than 4 bits are left: the stream ends here as if a terminator had been read (R142, R422). -/
  | endOfStream
  /-- A field or the payload runs past the end of the data: `Format(FE_TRUNCATED)` (R421). -/
  | truncated
  deriving DecidableEq, Repr

/-- The bits of the field of `n` bits at stream position `pos`, in stream order (R9). -/
def streamBits (bit : Nat → Bool) (pos n : Nat) : List Bool :=
  (List.range n).map fun k => bit (pos + k)

/-- `readBits(n)` at position `pos` of a stream that ends at `stop` (R421): none when it would run past the end. -/
def readField (bit : Nat → Bool) (stop pos n : Nat) : Option Nat :=
  if pos + n > stop then none else some (fieldValue (streamBits bit pos n))

/-- `k` fields of `n` bits each, one after the other; none when one of them runs past the end. -/
def readFields (bit : Nat → Bool) (stop n : Nat) : Nat → Nat → Option (List Nat)
  | 0, _ => some []
  | k + 1, pos =>
    match readField bit stop pos n with
    | none => none
    | some x => (readFields bit stop n k (pos + n)).map (x :: ·)

/-- The digit groups of `c` digits (R134, R431), up to and including the first that is out of range. -/
def readNumGroups (bit : Nat → Bool) (stop : Nat) : Nat → Nat → Option (List Nat)
  | 0, _ => some []
  | 1, pos => (readField bit stop pos 4).map ([·])
  | 2, pos => (readField bit stop pos 7).map ([·])
  | c + 3, pos =>
    match readField bit stop pos 10 with
    | none => none
    | some x => if x ≥ 1000 then some [x] else (readNumGroups bit stop c (pos + 10)).map (x :: ·)

/-- The groups of `c` alphanumeric symbols (R135, R433), up to and including the first that is out of range. -/
def readAlnumGroups (bit : Nat → Bool) (stop : Nat) : Nat → Nat → Option (List Nat)
  | 0, _ => some []
  | 1, pos => (readField bit stop pos 6).map ([·])
  | c + 2, pos =>
    match readField bit stop pos 11 with
    | none => none
    | some x => if x ≥ 2025 then some [x] else (readAlnumGroups bit stop c (pos + 11)).map (x :: ·)

/-- An ECI designator at `pos` (R139). -/
def readEci (bit : Nat → Bool) (stop pos : Nat) : Option EciDesignator :=
  match readField bit stop pos 8 with
  | none => none
  | some b =>
    if b < 128 then some (.one (BitVec.ofNat 7 b))
    else if b < 192 then
      (readField bit stop (pos + 8) 8).map fun b1 => .two (BitVec.ofNat 14 ((b % 64) * 256 + b1))
    else if b < 224 then
      (readField bit stop (pos + 8) 16).map fun b12 => .three (BitVec.ofNat 21 ((b % 32) * 65536 + b12))
    else some (.illegal (BitVec.ofNat 5 (b % 32)))

/-- What follows a mode indicator: the operands, read from `pos`; none when they are truncated. -/
def readOperands (t : Tier) (bit : Nat → Bool) (stop mode pos : Nat) : Option Instr :=
  match mode with
  | 0 => some .terminator
  | 1 =>
    match readField bit stop pos (countWidth .numeric t) with
    | none => none
    | some c => (readNumGroups bit stop c (pos + countWidth .numeric t)).map (.numeric c ·)
  | 2 =>
    match readField bit stop pos (countWidth .alphanumeric t) with
    | none => none
    | some c => (readAlnumGroups bit stop c (pos + countWidth .alphanumeric t)).map (.alphanumeric c ·)
  | 3 =>
    match readField bit stop pos 8, readField bit stop (pos + 8) 8 with
    | some q, some r => some (.structuredAppend (BitVec.ofNat 8 q) (BitVec.ofNat 8 r))
    | _, _ => none
  | 4 =>
    match readField bit stop pos (countWidth .byte t) with
    | none => none
    | some c => (readFields bit stop 8 c (pos + countWidth .byte t)).map fun p => .byte (p.map (BitVec.ofNat 8))
  | 5 => some .fnc1First
  | 6 => some .reservedMode6
  | 7 => (readEci bit stop pos).map .eci
  | 8 =>
    match readField bit stop pos (countWidth .kanji t) with
    | none => none
    | some c => (readFields bit stop 13 c (pos + countWidth .kanji t)).map fun k => .kanji (k.map (BitVec.ofNat 13))
  | 9 => (readField bit stop pos 8).map fun a => .fnc1Second (BitVec.ofNat 8 a)
  | 10 => some .reservedModeA
  | 11 => some .reservedModeB
  | 12 => some .reservedModeC
  | 13 =>
    match readField bit stop pos 4 with
    | none => none
    | some s =>
      if s ≠ 1 then some (.hanzi (BitVec.ofNat 4 s) [])
      else
        match readField bit stop (pos + 4) (countWidth .hanzi t) with
        | none => none
        | some c =>
          (readFields bit stop 13 c (pos + 4 + countWidth .hanzi t)).map fun k => .hanzi 1 (k.map (BitVec.ofNat 13))
  | 14 => some .reservedModeE
  | _ => some .reservedModeF

/-- The segment instruction at stream position `pos` of a stream that ends at `stop`, read at a version tier
(R130, R131, R142, R422). `bit p` is the bit at stream position `p`. -/
def decodeSegment (t : Tier) (bit : Nat → Bool) (stop pos : Nat) : Except Reject Instr :=
  if stop < pos + 4 then .error .endOfStream
  else
    match readOperands t bit stop (fieldValue (streamBits bit pos 4)) (pos + 4) with
    | none => .error .truncated
    | some i => .ok i

/-! ## The encoder -/

/-- An encoded instruction: a command word (R120), or the bit string of a segment in stream order (R130). -/
inductive Encoded where
  | word (w : BitVec 32)
  | bits (b : List Bool)
  deriving DecidableEq, Repr

/-- The digit groups of `c` digits as bits (R134). -/
def numGroupBits : Nat → List Nat → List Bool
  | 0, _ => []
  | 1, gs => match gs with
    | x :: _ => fieldBits 4 x
    | [] => []
  | 2, gs => match gs with
    | x :: _ => fieldBits 7 x
    | [] => []
  | c + 3, gs => match gs with
    | x :: xs => fieldBits 10 x ++ numGroupBits c xs
    | [] => []

/-- The groups of `c` alphanumeric symbols as bits (R135). -/
def alnumGroupBits : Nat → List Nat → List Bool
  | 0, _ => []
  | 1, gs => match gs with
    | x :: _ => fieldBits 6 x
    | [] => []
  | c + 2, gs => match gs with
    | x :: xs => fieldBits 11 x ++ alnumGroupBits c xs
    | [] => []

/-- An ECI designator as bits (R139). -/
def eciDesignatorBits : EciDesignator → List Bool
  | .one v => false :: fieldBits 7 v.toNat
  | .two v => true :: false :: fieldBits 14 v.toNat
  | .three v => true :: true :: false :: fieldBits 21 v.toNat
  | .illegal low => true :: true :: true :: fieldBits 5 low.toNat

/-- The encoding of an instruction at a version tier: the tables of R122, R124 and of R130 to R141. -/
def encode (t : Tier) : Instr → Encoded
  | .nop => .word 0x00000000
  | .decode => .word 0x00000001
  | .binarize => .word 0x00000002
  | .detect => .word 0x00000003
  | .decodesym => .word 0x00000004
  | .rsdecode => .word 0x00000005
  | .parsebits => .word 0x00000006
  | .clear => .word 0x00000007
  | .reservedCmd8 => .word 0x00000008
  | .reservedCmd9 => .word 0x00000009
  | .reservedCmdA => .word 0x0000000A
  | .reservedCmdB => .word 0x0000000B
  | .reservedCmdC => .word 0x0000000C
  | .reservedCmdD => .word 0x0000000D
  | .reservedCmdE => .word 0x0000000E
  | .reservedCmdF => .word 0x0000000F
  | .reservedCmdNonzeroUpper op upper => .word (upper ++ op)
  | .terminator => .bits (fieldBits 4 0x0)
  | .numeric c gs => .bits (fieldBits 4 0x1 ++ fieldBits (countWidth .numeric t) c ++ numGroupBits c gs)
  | .alphanumeric c gs => .bits (fieldBits 4 0x2 ++ fieldBits (countWidth .alphanumeric t) c ++ alnumGroupBits c gs)
  | .structuredAppend q r => .bits (fieldBits 4 0x3 ++ fieldBits 8 q.toNat ++ fieldBits 8 r.toNat)
  | .byte p =>
    .bits (fieldBits 4 0x4 ++ fieldBits (countWidth .byte t) p.length ++ p.flatMap fun b => fieldBits 8 b.toNat)
  | .fnc1First => .bits (fieldBits 4 0x5)
  | .reservedMode6 => .bits (fieldBits 4 0x6)
  | .eci d => .bits (fieldBits 4 0x7 ++ eciDesignatorBits d)
  | .kanji k =>
    .bits (fieldBits 4 0x8 ++ fieldBits (countWidth .kanji t) k.length ++ k.flatMap fun x => fieldBits 13 x.toNat)
  | .fnc1Second a => .bits (fieldBits 4 0x9 ++ fieldBits 8 a.toNat)
  | .reservedModeA => .bits (fieldBits 4 0xA)
  | .reservedModeB => .bits (fieldBits 4 0xB)
  | .reservedModeC => .bits (fieldBits 4 0xC)
  | .hanzi subset k =>
    .bits (fieldBits 4 0xD ++ fieldBits 4 subset.toNat ++
      (if subset = 1 then fieldBits (countWidth .hanzi t) k.length ++ k.flatMap fun x => fieldBits 13 x.toNat else []))
  | .reservedModeE => .bits (fieldBits 4 0xE)
  | .reservedModeF => .bits (fieldBits 4 0xF)

/-- The length in bits of a segment instruction (R144): what its execution advances the bit cursor by. A command is
no part of the stream. -/
def segmentLength (t : Tier) : Instr → Nat
  | .terminator | .fnc1First => 4
  | .numeric c _ => 4 + countWidth .numeric t + payloadBits .numeric c
  | .alphanumeric c _ => 4 + countWidth .alphanumeric t + payloadBits .alphanumeric c
  | .byte p => 4 + countWidth .byte t + payloadBits .byte p.length
  | .kanji k => 4 + countWidth .kanji t + payloadBits .kanji k.length
  | .hanzi _ k => 4 + 4 + countWidth .hanzi t + payloadBits .hanzi k.length
  | .eci d => 4 + eciBits d
  | .structuredAppend _ _ => 4 + 16
  | .fnc1Second _ => 4 + 8
  | .reservedMode6 | .reservedModeA | .reservedModeB => 4
  | .reservedModeC | .reservedModeE | .reservedModeF => 4
  | .nop | .decode | .binarize | .detect | .decodesym | .rsdecode | .parsebits | .clear => 0
  | .reservedCmd8 | .reservedCmd9 | .reservedCmdA | .reservedCmdB => 0
  | .reservedCmdC | .reservedCmdD | .reservedCmdE | .reservedCmdF => 0
  | .reservedCmdNonzeroUpper _ _ => 0

/-! ## The opcode table's numbering -/

/-- The stream bit at position `p` of a segment whose table word is `w`: spec/opcode_table.json gives `MODE` the bits
3:0 of the word as a value (so its most significant bit, bit 3, comes first in the stream, R9) and counts operand bits
on from position 4 in stream order. -/
def tableStreamBit (w p : Nat) : Bool :=
  if p < 4 then w.testBit (3 - p) else w.testBit p

/-- The instruction read from the table word `w` of `nbits` bits: a command word where the row has more than 24 bits,
otherwise a segment at the lowest tier, every stream bit from `nbits` on 0 and the data 2956 bytes long (log 9). -/
def decodeTableWord (nbits w : Nat) : Option Instr :=
  let v := w % 2 ^ nbits
  if nbits > 24 then some (decodeCommand (BitVec.ofNat 32 v))
  else
    match decodeSegment .low (tableStreamBit v) 23648 0 with
    | .ok i => some i
    | .error _ => none

end Sys2Proof
end

