-- ==== Sys2Proof/Machine/Tables.lean ====
section
/-!
DEFINITION. The constant tables of the hardware (`10_state.md` R60): the field tables (`45_reed_solomon.md` R381), the
alphanumeric table (`46_bitstream_parser.md` R432), the format and version code words and the version table
(`44_matrix_parser.md` R334, R339, R343, R344).
-/

namespace Sys2Proof.Machine

open Sys2Proof

/-- `EXP` (R381): the powers of the generator element 2 of GF(256). -/
def expTable : List Nat :=
  [1, 2, 4, 8, 16, 32, 64, 128, 29, 58, 116, 232, 205, 135, 19, 38] ++
  [76, 152, 45, 90, 180, 117, 234, 201, 143, 3, 6, 12, 24, 48, 96, 192] ++
  [157, 39, 78, 156, 37, 74, 148, 53, 106, 212, 181, 119, 238, 193, 159, 35] ++
  [70, 140, 5, 10, 20, 40, 80, 160, 93, 186, 105, 210, 185, 111, 222, 161] ++
  [95, 190, 97, 194, 153, 47, 94, 188, 101, 202, 137, 15, 30, 60, 120, 240] ++
  [253, 231, 211, 187, 107, 214, 177, 127, 254, 225, 223, 163, 91, 182, 113, 226] ++
  [217, 175, 67, 134, 17, 34, 68, 136, 13, 26, 52, 104, 208, 189, 103, 206] ++
  [129, 31, 62, 124, 248, 237, 199, 147, 59, 118, 236, 197, 151, 51, 102, 204] ++
  [133, 23, 46, 92, 184, 109, 218, 169, 79, 158, 33, 66, 132, 21, 42, 84] ++
  [168, 77, 154, 41, 82, 164, 85, 170, 73, 146, 57, 114, 228, 213, 183, 115] ++
  [230, 209, 191, 99, 198, 145, 63, 126, 252, 229, 215, 179, 123, 246, 241, 255] ++
  [227, 219, 171, 75, 150, 49, 98, 196, 149, 55, 110, 220, 165, 87, 174, 65] ++
  [130, 25, 50, 100, 200, 141, 7, 14, 28, 56, 112, 224, 221, 167, 83, 166] ++
  [81, 162, 89, 178, 121, 242, 249, 239, 195, 155, 43, 86, 172, 69, 138, 9] ++
  [18, 36, 72, 144, 61, 122, 244, 245, 247, 243, 251, 235, 203, 139, 11, 22] ++
  [44, 88, 176, 125, 250, 233, 207, 131, 27, 54, 108, 216, 173, 71, 142, 1]

/-- `LOG` (R381): entry 0 is printed as 0 and never read. -/
def logTable : List Nat :=
  [0, 0, 1, 25, 2, 50, 26, 198, 3, 223, 51, 238, 27, 104, 199, 75] ++
  [4, 100, 224, 14, 52, 141, 239, 129, 28, 193, 105, 248, 200, 8, 76, 113] ++
  [5, 138, 101, 47, 225, 36, 15, 33, 53, 147, 142, 218, 240, 18, 130, 69] ++
  [29, 181, 194, 125, 106, 39, 249, 185, 201, 154, 9, 120, 77, 228, 114, 166] ++
  [6, 191, 139, 98, 102, 221, 48, 253, 226, 152, 37, 179, 16, 145, 34, 136] ++
  [54, 208, 148, 206, 143, 150, 219, 189, 241, 210, 19, 92, 131, 56, 70, 64] ++
  [30, 66, 182, 163, 195, 72, 126, 110, 107, 58, 40, 84, 250, 133, 186, 61] ++
  [202, 94, 155, 159, 10, 21, 121, 43, 78, 212, 229, 172, 115, 243, 167, 87] ++
  [7, 112, 192, 247, 140, 128, 99, 13, 103, 74, 222, 237, 49, 197, 254, 24] ++
  [227, 165, 153, 119, 38, 184, 180, 124, 17, 68, 146, 217, 35, 32, 137, 46] ++
  [55, 63, 209, 91, 149, 188, 207, 205, 144, 135, 151, 178, 220, 252, 190, 97] ++
  [242, 86, 211, 171, 20, 42, 93, 158, 132, 60, 57, 83, 71, 109, 65, 162] ++
  [31, 45, 67, 216, 183, 123, 164, 118, 196, 23, 73, 236, 127, 12, 111, 246] ++
  [108, 161, 59, 82, 41, 157, 85, 170, 251, 96, 134, 177, 187, 204, 62, 90] ++
  [203, 89, 95, 176, 156, 169, 160, 81, 11, 245, 22, 235, 122, 117, 44, 215] ++
  [79, 174, 213, 233, 230, 231, 173, 232, 116, 214, 244, 234, 168, 80, 88, 175]

/-- `ALNUM[k]` (R432): the ASCII code of index `k`. -/
def alnumTable : List Nat :=
  [0x30, 0x31, 0x32, 0x33, 0x34, 0x35, 0x36, 0x37, 0x38, 0x39, 0x41, 0x42, 0x43, 0x44, 0x45] ++
  [0x46, 0x47, 0x48, 0x49, 0x4A, 0x4B, 0x4C, 0x4D, 0x4E, 0x4F, 0x50, 0x51, 0x52, 0x53, 0x54] ++
  [0x55, 0x56, 0x57, 0x58, 0x59, 0x5A, 0x20, 0x24, 0x25, 0x2A, 0x2B, 0x2D, 0x2E, 0x2F, 0x3A]

/-- `FCW[k]` (R334). -/
def formatWords : List Nat :=
  [0x0000, 0x0537, 0x0A6E, 0x0F59, 0x11EB, 0x14DC, 0x1B85, 0x1EB2] ++
  [0x23D6, 0x26E1, 0x29B8, 0x2C8F, 0x323D, 0x370A, 0x3853, 0x3D64] ++
  [0x429B, 0x47AC, 0x48F5, 0x4DC2, 0x5370, 0x5647, 0x591E, 0x5C29] ++
  [0x614D, 0x647A, 0x6B23, 0x6E14, 0x70A6, 0x7591, 0x7AC8, 0x7FFF]

/-- `VCW[v]` for `v` = 7 to 40, entry 0 being version 7 (R339). -/
def versionWords : List Nat :=
  [0x07C94, 0x085BC, 0x09A99, 0x0A4D3, 0x0BBF6, 0x0C762, 0x0D847] ++
  [0x0E60D, 0x0F928, 0x10B78, 0x1145D, 0x12A17, 0x13532, 0x149A6] ++
  [0x15683, 0x168C9, 0x177EC, 0x18EC4, 0x191E1, 0x1AFAB, 0x1B08E] ++
  [0x1CC1A, 0x1D33F, 0x1ED75, 0x1F250, 0x209D5, 0x216F0, 0x228BA] ++
  [0x2379F, 0x24B0B, 0x2542E, 0x26A64, 0x27541, 0x28C69]

/-- The block layout of one version at one level (R344): EC codewords per block, then the groups as
(count, data codewords per block) in block order. -/
structure EcLayout where
  ec : Nat
  groups : List (Nat × Nat)
  deriving DecidableEq, Repr

/-- One row of the version table (R343, R344). -/
structure VersionInfo where
  align : List Nat
  total : Nat
  low : EcLayout
  medium : EcLayout
  quartile : EcLayout
  high : EcLayout
  deriving DecidableEq, Repr

/-- Versions 1 to 10 of R343, R344. -/
def versionTable1 : List VersionInfo :=
  [⟨[], 26,
    ⟨7, [(1, 19)]⟩, ⟨10, [(1, 16)]⟩,
    ⟨13, [(1, 13)]⟩, ⟨17, [(1, 9)]⟩⟩,
   ⟨[6, 18], 44,
    ⟨10, [(1, 34)]⟩, ⟨16, [(1, 28)]⟩,
    ⟨22, [(1, 22)]⟩, ⟨28, [(1, 16)]⟩⟩,
   ⟨[6, 22], 70,
    ⟨15, [(1, 55)]⟩, ⟨26, [(1, 44)]⟩,
    ⟨18, [(2, 17)]⟩, ⟨22, [(2, 13)]⟩⟩,
   ⟨[6, 26], 100,
    ⟨20, [(1, 80)]⟩, ⟨18, [(2, 32)]⟩,
    ⟨26, [(2, 24)]⟩, ⟨16, [(4, 9)]⟩⟩,
   ⟨[6, 30], 134,
    ⟨26, [(1, 108)]⟩, ⟨24, [(2, 43)]⟩,
    ⟨18, [(2, 15), (2, 16)]⟩, ⟨22, [(2, 11), (2, 12)]⟩⟩,
   ⟨[6, 34], 172,
    ⟨18, [(2, 68)]⟩, ⟨16, [(4, 27)]⟩,
    ⟨24, [(4, 19)]⟩, ⟨28, [(4, 15)]⟩⟩,
   ⟨[6, 22, 38], 196,
    ⟨20, [(2, 78)]⟩, ⟨18, [(4, 31)]⟩,
    ⟨18, [(2, 14), (4, 15)]⟩, ⟨26, [(4, 13), (1, 14)]⟩⟩,
   ⟨[6, 24, 42], 242,
    ⟨24, [(2, 97)]⟩, ⟨22, [(2, 38), (2, 39)]⟩,
    ⟨22, [(4, 18), (2, 19)]⟩, ⟨26, [(4, 14), (2, 15)]⟩⟩,
   ⟨[6, 26, 46], 292,
    ⟨30, [(2, 116)]⟩, ⟨22, [(3, 36), (2, 37)]⟩,
    ⟨20, [(4, 16), (4, 17)]⟩, ⟨24, [(4, 12), (4, 13)]⟩⟩,
   ⟨[6, 28, 50], 346,
    ⟨18, [(2, 68), (2, 69)]⟩, ⟨26, [(4, 43), (1, 44)]⟩,
    ⟨24, [(6, 19), (2, 20)]⟩, ⟨28, [(6, 15), (2, 16)]⟩⟩]

/-- Versions 11 to 20 of R343, R344. -/
def versionTable11 : List VersionInfo :=
  [⟨[6, 30, 54], 404,
    ⟨20, [(4, 81)]⟩, ⟨30, [(1, 50), (4, 51)]⟩,
    ⟨28, [(4, 22), (4, 23)]⟩, ⟨24, [(3, 12), (8, 13)]⟩⟩,
   ⟨[6, 32, 58], 466,
    ⟨24, [(2, 92), (2, 93)]⟩, ⟨22, [(6, 36), (2, 37)]⟩,
    ⟨26, [(4, 20), (6, 21)]⟩, ⟨28, [(7, 14), (4, 15)]⟩⟩,
   ⟨[6, 34, 62], 532,
    ⟨26, [(4, 107)]⟩, ⟨22, [(8, 37), (1, 38)]⟩,
    ⟨24, [(8, 20), (4, 21)]⟩, ⟨22, [(12, 11), (4, 12)]⟩⟩,
   ⟨[6, 26, 46, 66], 581,
    ⟨30, [(3, 115), (1, 116)]⟩, ⟨24, [(4, 40), (5, 41)]⟩,
    ⟨20, [(11, 16), (5, 17)]⟩, ⟨24, [(11, 12), (5, 13)]⟩⟩,
   ⟨[6, 26, 48, 70], 655,
    ⟨22, [(5, 87), (1, 88)]⟩, ⟨24, [(5, 41), (5, 42)]⟩,
    ⟨30, [(5, 24), (7, 25)]⟩, ⟨24, [(11, 12), (7, 13)]⟩⟩,
   ⟨[6, 26, 50, 74], 733,
    ⟨24, [(5, 98), (1, 99)]⟩, ⟨28, [(7, 45), (3, 46)]⟩,
    ⟨24, [(15, 19), (2, 20)]⟩, ⟨30, [(3, 15), (13, 16)]⟩⟩,
   ⟨[6, 30, 54, 78], 815,
    ⟨28, [(1, 107), (5, 108)]⟩, ⟨28, [(10, 46), (1, 47)]⟩,
    ⟨28, [(1, 22), (15, 23)]⟩, ⟨28, [(2, 14), (17, 15)]⟩⟩,
   ⟨[6, 30, 56, 82], 901,
    ⟨30, [(5, 120), (1, 121)]⟩, ⟨26, [(9, 43), (4, 44)]⟩,
    ⟨28, [(17, 22), (1, 23)]⟩, ⟨28, [(2, 14), (19, 15)]⟩⟩,
   ⟨[6, 30, 58, 86], 991,
    ⟨28, [(3, 113), (4, 114)]⟩, ⟨26, [(3, 44), (11, 45)]⟩,
    ⟨26, [(17, 21), (4, 22)]⟩, ⟨26, [(9, 13), (16, 14)]⟩⟩,
   ⟨[6, 34, 62, 90], 1085,
    ⟨28, [(3, 107), (5, 108)]⟩, ⟨26, [(3, 41), (13, 42)]⟩,
    ⟨30, [(15, 24), (5, 25)]⟩, ⟨28, [(15, 15), (10, 16)]⟩⟩]

/-- Versions 21 to 30 of R343, R344. -/
def versionTable21 : List VersionInfo :=
  [⟨[6, 28, 50, 72, 94], 1156,
    ⟨28, [(4, 116), (4, 117)]⟩, ⟨26, [(17, 42)]⟩,
    ⟨28, [(17, 22), (6, 23)]⟩, ⟨30, [(19, 16), (6, 17)]⟩⟩,
   ⟨[6, 26, 50, 74, 98], 1258,
    ⟨28, [(2, 111), (7, 112)]⟩, ⟨28, [(17, 46)]⟩,
    ⟨30, [(7, 24), (16, 25)]⟩, ⟨24, [(34, 13)]⟩⟩,
   ⟨[6, 30, 54, 78, 102], 1364,
    ⟨30, [(4, 121), (5, 122)]⟩, ⟨28, [(4, 47), (14, 48)]⟩,
    ⟨30, [(11, 24), (14, 25)]⟩, ⟨30, [(16, 15), (14, 16)]⟩⟩,
   ⟨[6, 28, 54, 80, 106], 1474,
    ⟨30, [(6, 117), (4, 118)]⟩, ⟨28, [(6, 45), (14, 46)]⟩,
    ⟨30, [(11, 24), (16, 25)]⟩, ⟨30, [(30, 16), (2, 17)]⟩⟩,
   ⟨[6, 32, 58, 84, 110], 1588,
    ⟨26, [(8, 106), (4, 107)]⟩, ⟨28, [(8, 47), (13, 48)]⟩,
    ⟨30, [(7, 24), (22, 25)]⟩, ⟨30, [(22, 15), (13, 16)]⟩⟩,
   ⟨[6, 30, 58, 86, 114], 1706,
    ⟨28, [(10, 114), (2, 115)]⟩, ⟨28, [(19, 46), (4, 47)]⟩,
    ⟨28, [(28, 22), (6, 23)]⟩, ⟨30, [(33, 16), (4, 17)]⟩⟩,
   ⟨[6, 34, 62, 90, 118], 1828,
    ⟨30, [(8, 122), (4, 123)]⟩, ⟨28, [(22, 45), (3, 46)]⟩,
    ⟨30, [(8, 23), (26, 24)]⟩, ⟨30, [(12, 15), (28, 16)]⟩⟩,
   ⟨[6, 26, 50, 74, 98, 122], 1921,
    ⟨30, [(3, 117), (10, 118)]⟩, ⟨28, [(3, 45), (23, 46)]⟩,
    ⟨30, [(4, 24), (31, 25)]⟩, ⟨30, [(11, 15), (31, 16)]⟩⟩,
   ⟨[6, 30, 54, 78, 102, 126], 2051,
    ⟨30, [(7, 116), (7, 117)]⟩, ⟨28, [(21, 45), (7, 46)]⟩,
    ⟨30, [(1, 23), (37, 24)]⟩, ⟨30, [(19, 15), (26, 16)]⟩⟩,
   ⟨[6, 26, 52, 78, 104, 130], 2185,
    ⟨30, [(5, 115), (10, 116)]⟩, ⟨28, [(19, 47), (10, 48)]⟩,
    ⟨30, [(15, 24), (25, 25)]⟩, ⟨30, [(23, 15), (25, 16)]⟩⟩]

/-- Versions 31 to 40 of R343, R344. -/
def versionTable31 : List VersionInfo :=
  [⟨[6, 30, 56, 82, 108, 134], 2323,
    ⟨30, [(13, 115), (3, 116)]⟩, ⟨28, [(2, 46), (29, 47)]⟩,
    ⟨30, [(42, 24), (1, 25)]⟩, ⟨30, [(23, 15), (28, 16)]⟩⟩,
   ⟨[6, 34, 60, 86, 112, 138], 2465,
    ⟨30, [(17, 115)]⟩, ⟨28, [(10, 46), (23, 47)]⟩,
    ⟨30, [(10, 24), (35, 25)]⟩, ⟨30, [(19, 15), (35, 16)]⟩⟩,
   ⟨[6, 30, 58, 86, 114, 142], 2611,
    ⟨30, [(17, 115), (1, 116)]⟩, ⟨28, [(14, 46), (21, 47)]⟩,
    ⟨30, [(29, 24), (19, 25)]⟩, ⟨30, [(11, 15), (46, 16)]⟩⟩,
   ⟨[6, 34, 62, 90, 118, 146], 2761,
    ⟨30, [(13, 115), (6, 116)]⟩, ⟨28, [(14, 46), (23, 47)]⟩,
    ⟨30, [(44, 24), (7, 25)]⟩, ⟨30, [(59, 16), (1, 17)]⟩⟩,
   ⟨[6, 30, 54, 78, 102, 126, 150], 2876,
    ⟨30, [(12, 121), (7, 122)]⟩, ⟨28, [(12, 47), (26, 48)]⟩,
    ⟨30, [(39, 24), (14, 25)]⟩, ⟨30, [(22, 15), (41, 16)]⟩⟩,
   ⟨[6, 24, 50, 76, 102, 128, 154], 3034,
    ⟨30, [(6, 121), (14, 122)]⟩, ⟨28, [(6, 47), (34, 48)]⟩,
    ⟨30, [(46, 24), (10, 25)]⟩, ⟨30, [(2, 15), (64, 16)]⟩⟩,
   ⟨[6, 28, 54, 80, 106, 132, 158], 3196,
    ⟨30, [(17, 122), (4, 123)]⟩, ⟨28, [(29, 46), (14, 47)]⟩,
    ⟨30, [(49, 24), (10, 25)]⟩, ⟨30, [(24, 15), (46, 16)]⟩⟩,
   ⟨[6, 32, 58, 84, 110, 136, 162], 3362,
    ⟨30, [(4, 122), (18, 123)]⟩, ⟨28, [(13, 46), (32, 47)]⟩,
    ⟨30, [(48, 24), (14, 25)]⟩, ⟨30, [(42, 15), (32, 16)]⟩⟩,
   ⟨[6, 26, 54, 82, 110, 138, 166], 3532,
    ⟨30, [(20, 117), (4, 118)]⟩, ⟨28, [(40, 47), (7, 48)]⟩,
    ⟨30, [(43, 24), (22, 25)]⟩, ⟨30, [(10, 15), (67, 16)]⟩⟩,
   ⟨[6, 30, 58, 86, 114, 142, 170], 3706,
    ⟨30, [(19, 118), (6, 119)]⟩, ⟨28, [(18, 47), (31, 48)]⟩,
    ⟨30, [(34, 24), (34, 25)]⟩, ⟨30, [(20, 15), (61, 16)]⟩⟩]

/-- The version table: entry `v - 1` is version `v` (R343, R344). -/
def versionTable : List VersionInfo := versionTable1 ++ versionTable11 ++ versionTable21 ++ versionTable31

/-- The row of a version; an empty row for a number that is no version. -/
def versionInfo (v : Nat) : VersionInfo :=
  if v = 0 then ⟨[], 0, ⟨0, []⟩, ⟨0, []⟩, ⟨0, []⟩, ⟨0, []⟩⟩
  else versionTable.getD (v - 1) ⟨[], 0, ⟨0, []⟩, ⟨0, []⟩, ⟨0, []⟩, ⟨0, []⟩⟩

/-- The layout for an EC level code (R336, R344): 1 is L, 0 is M, 3 is Q, 2 is H. -/
def ecLayout (v : Nat) (ecbits : BitVec 2) : EcLayout :=
  match ecbits.toNat with
  | 0 => (versionInfo v).medium
  | 1 => (versionInfo v).low
  | 2 => (versionInfo v).high
  | _ => (versionInfo v).quartile

end Sys2Proof.Machine
end

