-- ==== Sys2Proof/Machine/Segments.lean ====
section
/-!
DEFINITION. The meanings of the segment instructions (`46_bitstream_parser.md` R430 to R449). Each acts on the state in
which the bit cursor stands at its first bit, and leaves the cursor after its last.
-/

namespace Sys2Proof.Machine

open Sys2Proof

/-! ## Text of the counted modes -/

/-- The code of a decimal digit (R431). -/
def digitByte (d : Nat) : Byte := BitVec.ofNat 8 (48 + d)

/-- `ALNUM[k]` (R432). -/
def alnumByte (k : Nat) : Byte := BitVec.ofNat 8 (alnumTable.getD k 0)

/-- The text of `c` digits from their groups (R431): the first group out of range raises. -/
def numericText : Nat → List Nat → Except Exc (List Byte)
  | 0, _ => .ok []
  | 1, gs => match gs with
    | x :: _ => if x ≥ 10 then .error .feValue else .ok [digitByte x]
    | [] => .error .feTruncated
  | 2, gs => match gs with
    | x :: _ => if x ≥ 100 then .error .feValue else .ok [digitByte (x / 10), digitByte (x % 10)]
    | [] => .error .feTruncated
  | c + 3, gs => match gs with
    | x :: xs =>
      if x ≥ 1000 then .error .feValue
      else
        (numericText c xs).map fun t => digitByte (x / 100) :: digitByte ((x / 10) % 10) :: digitByte (x % 10) :: t
    | [] => .error .feTruncated

/-- The text of `c` alphanumeric symbols from their groups (R433). -/
def alnumText : Nat → List Nat → Except Exc (List Byte)
  | 0, _ => .ok []
  | 1, gs => match gs with
    | x :: _ => if x ≥ 45 then .error .feValue else .ok [alnumByte x]
    | [] => .error .feTruncated
  | c + 2, gs => match gs with
    | x :: xs =>
      if x ≥ 2025 then .error .feValue
      else (alnumText c xs).map fun t => alnumByte (x / 45) :: alnumByte (x % 45) :: t
    | [] => .error .feTruncated

/-- The two bytes of a 16-bit code, high byte first (R435, R436). -/
def codeBytes (a : Nat) : List Byte := [BitVec.ofNat 8 (a / 256), BitVec.ofNat 8 (a % 256)]

/-- The Shift-JIS code of a Kanji value (R435). -/
def kanjiCode (x : Nat) : Nat :=
  let a := (x / 0xC0) * 256 + x % 0xC0
  if a < 0x1F00 then a + 0x8140 else a + 0xC140

/-- The GB2312 code of a Hanzi value (R436). -/
def hanziCode (x : Nat) : Nat :=
  let a := (x / 0x60) * 256 + x % 0x60
  if a < 0x0A00 then a + 0xA1A1 else a + 0xA6A1

/-- The text of a list of Kanji values. -/
def kanjiText (codes : List (BitVec 13)) : List Byte := codes.flatMap fun x => codeBytes (kanjiCode x.toNat)

/-- The text of a list of Hanzi values. -/
def hanziText (codes : List (BitVec 13)) : List Byte := codes.flatMap fun x => codeBytes (hanziCode x.toNat)

/-! ## Shared forms -/

/-- The tier the current symbol's version selects (R132). -/
def curTier (s : State) : Tier := tierOf s.bits.ver

/-- A counted mode whose text may turn out illegal: the exception, else the text and its entry. -/
def textOrRaise (s : State) (r : Except Exc (List Byte)) (mode cskind n : Nat) : State :=
  match r with
  | .error e => raise s e
  | .ok bs => textSegment s mode cskind 0 bs n

/-- `CSKIND` of a BYTE entry (R434). -/
def byteCskind (s : State) : Nat :=
  if s.bits.eciActive then csEci else if hintCharsetValid s.hints then csHint else csDefault

/-- `VALUE` of a BYTE entry (R434). -/
def byteValue (s : State) : Word :=
  if s.bits.eciActive then s.bits.eciValue.setWidth 32
  else if hintCharsetValid s.hints then (hintCharset s.hints).setWidth 32
  else 0

/-! ## The instructions -/

/-- TERMINATOR (R430): the loop stops, the cursor just after the 4 bits. -/
def execTerminator (s : State) : Host.Outcome State Fault Refusal := .next (finishBits (advance s 4))

/-- NUMERIC (R431). -/
def execNumeric (count : Nat) (groups : List Nat) (s : State) : Host.Outcome State Fault Refusal :=
  .next (textOrRaise s (numericText count groups) 0x1 csAscii (segmentLength (curTier s) (.numeric count groups)))

/-- ALPHANUMERIC (R433). FNC1 does not change it. -/
def execAlphanumeric (count : Nat) (groups : List Nat) (s : State) : Host.Outcome State Fault Refusal :=
  .next (textOrRaise s (alnumText count groups) 0x2 csAscii (segmentLength (curTier s) (.alphanumeric count groups)))

/-- BYTE (R434): the bytes unchanged, the character set named by the active ECI, the hint or neither. -/
def execByte (payload : List (BitVec 8)) (s : State) : Host.Outcome State Fault Refusal :=
  .next (textSegment s 0x4 (byteCskind s) (byteValue s) payload (segmentLength (curTier s) (.byte payload)))

/-- KANJI (R435). -/
def execKanji (codes : List (BitVec 13)) (s : State) : Host.Outcome State Fault Refusal :=
  .next (textSegment s 0x8 csSjis 0 (kanjiText codes) (segmentLength (curTier s) (.kanji codes)))

/-- HANZI (R436): only the subset 1 is defined. -/
def execHanzi (subset : BitVec 4) (codes : List (BitVec 13)) (s : State) : Host.Outcome State Fault Refusal :=
  if subset = 1 then
    .next (textSegment s 0xD csGb2312 0 (hanziText codes) (segmentLength (curTier s) (.hanzi subset codes)))
  else .next (raise s .feHanziSubset)

/-- STRUCTURED_APPEND (R445): `RES_SA` will have the sequence byte low, the entry has it high. -/
def execStructuredAppend (seq parity : BitVec 8) (s : State) : Host.Outcome State Fault Refusal :=
  .next
    (bareSegment { s with bits := { s.bits with sa := parity ++ seq, saSeen := true } } 0x3
      ((seq ++ parity).setWidth 32) (segmentLength (curTier s) (.structuredAppend seq parity)))

/-- FNC1_FIRST (R446): recorded only. -/
def execFnc1First (s : State) : Host.Outcome State Fault Refusal :=
  .next (bareSegment { s with bits := { s.bits with fnc1a := true } } 0x5 0 (segmentLength (curTier s) .fnc1First))

/-- FNC1_SECOND (R447): recorded, with its application indicator. -/
def execFnc1Second (app : BitVec 8) (s : State) : Host.Outcome State Fault Refusal :=
  .next
    (bareSegment { s with bits := { s.bits with app := app, fnc1b := true } } 0x9 (app.setWidth 32)
      (segmentLength (curTier s) (.fnc1Second app)))

/-- ECI (R448): the character-set context of the BYTE segments that follow; the form `111xxxxx` raises. -/
def execEci (designator : EciDesignator) (s : State) : Host.Outcome State Fault Refusal :=
  match eciValue designator with
  | some e =>
    .next
      (bareSegment { s with bits := { s.bits with eciActive := true, eciValue := e, eciSeen := true } } 0x7
        (e.setWidth 32) (segmentLength (curTier s) (.eci designator)))
  | none => .next (raise s .feEci)

/-- Mode 0110 (R449): `FE_MODE`. -/
def execReservedMode6 (s : State) : Host.Outcome State Fault Refusal := .next (raise s .feMode)

/-- Mode 1010 (R449). -/
def execReservedModeA (s : State) : Host.Outcome State Fault Refusal := .next (raise s .feMode)

/-- Mode 1011 (R449). -/
def execReservedModeB (s : State) : Host.Outcome State Fault Refusal := .next (raise s .feMode)

/-- Mode 1100 (R449). -/
def execReservedModeC (s : State) : Host.Outcome State Fault Refusal := .next (raise s .feMode)

/-- Mode 1110 (R449). -/
def execReservedModeE (s : State) : Host.Outcome State Fault Refusal := .next (raise s .feMode)

/-- Mode 1111 (R449). -/
def execReservedModeF (s : State) : Host.Outcome State Fault Refusal := .next (raise s .feMode)

end Sys2Proof.Machine
end

