-- ==== Sys2Proof/Machine/Dispatch.lean ====
section
/-!
DEFINITION. The dispatch from an instruction to its meaning: one arm per constructor, one direct call each.
-/

namespace Sys2Proof.Machine

open Sys2Proof

/-- The meaning of an instruction. -/
def exec (i : Instr) (s : State) : Host.Outcome State Fault Refusal :=
  match i with
  | .nop => Sys2Proof.Machine.execNop s
  | .decode => Sys2Proof.Machine.execDecode s
  | .binarize => Sys2Proof.Machine.execBinarize s
  | .detect => Sys2Proof.Machine.execDetect s
  | .decodesym => Sys2Proof.Machine.execDecodesym s
  | .rsdecode => Sys2Proof.Machine.execRsdecode s
  | .parsebits => Sys2Proof.Machine.execParsebits s
  | .clear => Sys2Proof.Machine.execClear s
  | .reservedCmd8 => Sys2Proof.Machine.execReservedCmd8 s
  | .reservedCmd9 => Sys2Proof.Machine.execReservedCmd9 s
  | .reservedCmdA => Sys2Proof.Machine.execReservedCmdA s
  | .reservedCmdB => Sys2Proof.Machine.execReservedCmdB s
  | .reservedCmdC => Sys2Proof.Machine.execReservedCmdC s
  | .reservedCmdD => Sys2Proof.Machine.execReservedCmdD s
  | .reservedCmdE => Sys2Proof.Machine.execReservedCmdE s
  | .reservedCmdF => Sys2Proof.Machine.execReservedCmdF s
  | .reservedCmdNonzeroUpper op upper => Sys2Proof.Machine.execReservedCmdNonzeroUpper op upper s
  | .terminator => Sys2Proof.Machine.execTerminator s
  | .numeric count groups => Sys2Proof.Machine.execNumeric count groups s
  | .alphanumeric count groups => Sys2Proof.Machine.execAlphanumeric count groups s
  | .structuredAppend seq parity => Sys2Proof.Machine.execStructuredAppend seq parity s
  | .byte payload => Sys2Proof.Machine.execByte payload s
  | .fnc1First => Sys2Proof.Machine.execFnc1First s
  | .eci designator => Sys2Proof.Machine.execEci designator s
  | .kanji codes => Sys2Proof.Machine.execKanji codes s
  | .fnc1Second app => Sys2Proof.Machine.execFnc1Second app s
  | .hanzi subset codes => Sys2Proof.Machine.execHanzi subset codes s
  | .reservedMode6 => Sys2Proof.Machine.execReservedMode6 s
  | .reservedModeA => Sys2Proof.Machine.execReservedModeA s
  | .reservedModeB => Sys2Proof.Machine.execReservedModeB s
  | .reservedModeC => Sys2Proof.Machine.execReservedModeC s
  | .reservedModeE => Sys2Proof.Machine.execReservedModeE s
  | .reservedModeF => Sys2Proof.Machine.execReservedModeF s

end Sys2Proof.Machine
end

