-- ==== Sys2Proof/Machine/Binarizer.lean ====
section
/-!
DEFINITION. Stage BIN (`41_binarizer.md`): from a frame of 8-bit samples to a bit matrix, as a function of the samples.
`lum x y` is `LUMA[x, y]`, `w` and `h` the frame's width and height.
-/

namespace Sys2Proof.Machine

open Sys2Proof

/-- What the stage produces: the rows of `IMG`, and the path taken (`RES_FLAGS.BIN_PATH`: true for the global path). -/
structure BinResult where
  path : Bool
  rows : List (List Bool)
  deriving DecidableEq, Repr

/-! ## The uniform frame and the path (R201, R202) -/

/-- All samples of the frame, row by row. -/
def frameSamples (lum : Nat → Nat → Nat) (w h : Nat) : List Nat :=
  (List.range h).flatMap fun y => (List.range w).map fun x => lum x y

/-- Does every sample have the same value (R202)? -/
def isUniform (lum : Nat → Nat → Nat) (w h : Nat) : Bool :=
  (frameSamples lum w h).all fun v => v = lum 0 0

/-! ## Local path (R203 to R206)

The rules are written with 8, 7 and 64 for `BLOCK`, `BLOCK - 1` and `BLOCK * BLOCK` of the default build; here they are
written with the parameter (log 5). -/

/-- The number of blocks along a side (R203). -/
def subBlocks (cfg : Config) (n : Nat) : Nat := (n + cfg.block - 1) / cfg.block

/-- The origin of a block along one axis (R203): the last block is shifted back inside the frame. -/
def blockOrigin (cfg : Config) (b n : Nat) : Nat := min (cfg.block * b) (n - cfg.block)

/-- The samples of a block (R204). -/
def blockSamples (cfg : Config) (lum : Nat → Nat → Nat) (w h bx by_ : Nat) : List Nat :=
  (List.range cfg.block).flatMap fun j => (List.range cfg.block).map fun i =>
    lum (blockOrigin cfg bx w + i) (blockOrigin cfg by_ h + j)

/-- An entry of a grid held as a list of rows. -/
def gridAt (g : List (List Nat)) (y x : Nat) : Nat := (g.getD y []).getD x 0

/-- The black point of one block (R204), given the black points of the row above and of the blocks to its left. -/
def blockBlackPoint (cfg : Config) (lum : Nat → Nat → Nat) (w h : Nat) (above left : List Nat) (bx by_ : Nat) : Nat :=
  let ss := blockSamples cfg lum w h bx by_
  let mn := ss.foldl min 255
  let mx := ss.foldl max 0
  if mx - mn > cfg.minDynamicRange then
    match cfg.bpEst with
    | .midpoint => (mn + mx) / 2
    | .mean => ss.sum / (cfg.block * cfg.block)
  else if bx > 0 ∧ by_ > 0 then
    let nb := (above.getD bx 0 + 2 * left.getD (bx - 1) 0 + above.getD (bx - 1) 0) / 4
    if mn < nb then nb else mn / 2
  else mn / 2

/-- One row of black points, the blocks from left to right (R204); `left` holds those already computed. -/
def blackPointRow (cfg : Config) (lum : Nat → Nat → Nat) (w h : Nat) (above : List Nat) (by_ : Nat) :
    Nat → List Nat → List Nat
  | 0, left => left
  | n + 1, left =>
    blackPointRow cfg lum w h above by_ n (left ++ [blockBlackPoint cfg lum w h above left left.length by_])

/-- The grid of black points, the rows from the top (R204); `done` holds the rows already computed. -/
def blackPointRows (cfg : Config) (lum : Nat → Nat → Nat) (w h : Nat) : Nat → List (List Nat) → List (List Nat)
  | 0, done => done
  | n + 1, done =>
    blackPointRows cfg lum w h n
      (done ++ [blackPointRow cfg lum w h (done.getLastD []) done.length (subBlocks cfg w) []])

/-- `BP[by][bx]` (R204). -/
def blackPoints (cfg : Config) (lum : Nat → Nat → Nat) (w h : Nat) : List (List Nat) :=
  blackPointRows cfg lum w h (subBlocks cfg h) []

/-- The centre of a block's 5 by 5 window along one axis (R205): `clamp(b, 2, sub - 3)`. -/
def windowCentre (b sub : Nat) : Nat := max 2 (min b (sub - 3))

/-- `T[by][bx]` (R205): the average over the window. -/
def blockThreshold (bp : List (List Nat)) (subW subH bx by_ : Nat) : Nat :=
  let cx := windowCentre bx subW
  let cy := windowCentre by_ subH
  (((List.range 5).flatMap fun dy => (List.range 5).map fun dx => gridAt bp (cy + dy - 2) (cx + dx - 2)).sum) / 25

/-- The threshold grid (R205). -/
def thresholds (bp : List (List Nat)) (subW subH : Nat) : List (List Nat) :=
  (List.range subH).map fun by_ => (List.range subW).map fun bx => blockThreshold bp subW subH bx by_

/-- The blocks along one axis that cover a coordinate (R203, R206): the block it falls in by division, and the last
block where that one is shifted back over it. -/
def coveringBlocks (cfg : Config) (x n : Nat) : List Nat :=
  let last := subBlocks cfg n - 1
  if blockOrigin cfg last n ≤ x then [x / cfg.block, last] else [x / cfg.block]

/-- Does the block cover the coordinate (R206)? -/
def blockCovers (cfg : Config) (b n x : Nat) : Bool := blockOrigin cfg b n ≤ x && x < blockOrigin cfg b n + cfg.block

/-- Local classification (R206, closed form): black when some block that covers the pixel has a threshold at or above
the sample. -/
def localPixel (cfg : Config) (lum : Nat → Nat → Nat) (t : List (List Nat)) (w h x y : Nat) : Bool :=
  (coveringBlocks cfg y h).any fun by_ => (coveringBlocks cfg x w).any fun bx =>
    blockCovers cfg bx w x && blockCovers cfg by_ h y && lum x y ≤ gridAt t by_ bx

/-! ## Global path (R210 to R212)

The rules are written for 32 buckets, a shift by 3; here the shift is the parameter (log 5). -/

/-- The samples the histogram counts (R210): four rows, the middle three fifths of each. -/
def histSamples (lum : Nat → Nat → Nat) (w h : Nat) : List Nat :=
  ([1, 2, 3, 4] : List Nat).flatMap fun k =>
    ((List.range w).filter fun x => w / 5 ≤ x ∧ x < (4 * w) / 5).map fun x => lum x ((h * k) / 5)

/-- `HIST[0 .. LUM_BUCKETS - 1]` (R210). -/
def histogram (cfg : Config) (lum : Nat → Nat → Nat) (w h : Nat) : List Nat :=
  let buckets := (histSamples lum w h).map (· / 2 ^ cfg.lumShift)
  (List.range cfg.lumBuckets).map fun b => buckets.countP (· = b)

/-- The index of the first strict maximum of a score over a list of indices, from a start index and score (R211). -/
def firstMax (score : Nat → Int) : List Nat → Nat → Int → Nat
  | [], best, _ => best
  | x :: xs, best, bestScore =>
    if score x > bestScore then firstMax score xs x (score x) else firstMax score xs best bestScore

/-- The global black point `GT` (R211). -/
def globalThreshold (cfg : Config) (hist : List Nat) : Except Exc Nat :=
  let at_ := fun x => hist.getD x 0
  let maxc := hist.foldl max 0
  let p1 := firstMax (fun x => (at_ x : Int)) (List.range cfg.lumBuckets) 0 0
  let p2 := firstMax (fun x => (at_ x : Int) * ((x : Int) - p1) * ((x : Int) - p1)) (List.range cfg.lumBuckets) 0 0
  let fp := min p1 p2
  let sp := max p1 p2
  if sp - fp ≤ 2 then .error .nfBinContrast
  else
    let valley := fun (x : Nat) => ((x : Int) - fp) * ((x : Int) - fp) * ((sp : Int) - x) * ((maxc : Int) - at_ x)
    let xs := ((List.range sp).filter fun x => fp + 1 ≤ x ∧ x ≤ sp - 1).reverse
    .ok (firstMax valley xs (sp - 1) (-1) * 2 ^ cfg.lumShift)

/-! ## The stage (R200) -/

/-- The rows of a bit matrix given pixel by pixel. -/
def matrixRows (px : Nat → Nat → Bool) (w h : Nat) : List (List Bool) :=
  (List.range h).map fun y => (List.range w).map fun x => px x y

/-- Stage BIN (R200): the uniform test, then the path by size, then that path. -/
def binarize (cfg : Config) (lum : Nat → Nat → Nat) (w h : Nat) : Except Exc BinResult :=
  if isUniform lum w h then .error .nfBinDegenerate
  else if cfg.minDim ≤ w ∧ cfg.minDim ≤ h then
    let t := thresholds (blackPoints cfg lum w h) (subBlocks cfg w) (subBlocks cfg h)
    .ok { path := false, rows := matrixRows (localPixel cfg lum t w h) w h }
  else
    match globalThreshold cfg (histogram cfg lum w h) with
    | .error e => .error e
    | .ok gt => .ok { path := true, rows := matrixRows (fun x y => lum x y < gt) w h }

end Sys2Proof.Machine
end

