-- ==== Sys2Proof/Machine/Finder.lean ====
section
/-!
DEFINITION. Stage DET, first part: the finder pattern search, selection and ordering (`42_finder_patterns.md` R231 to
R256). `blk x y` is the image pixel (R231), `w` and `h` the frame's width and height.
-/

namespace Sys2Proof.Machine

open Sys2Proof

/-! ## Five-run windows (R233 to R235) -/

/-- The five run counters `sc[0..4]` (R233). -/
structure Runs where
  r0 : Nat := 0
  r1 : Nat := 0
  r2 : Nat := 0
  r3 : Nat := 0
  r4 : Nat := 0
  deriving DecidableEq, Repr

/-- The sum of the five counters. -/
def Runs.total (sc : Runs) : Nat := sc.r0 + sc.r1 + sc.r2 + sc.r3 + sc.r4

/-- One more pixel in run `k`. -/
def Runs.bump (sc : Runs) (k : Nat) : Runs :=
  match k with
  | 0 => { sc with r0 := sc.r0 + 1 }
  | 1 => { sc with r1 := sc.r1 + 1 }
  | 2 => { sc with r2 := sc.r2 + 1 }
  | 3 => { sc with r3 := sc.r3 + 1 }
  | _ => { sc with r4 := sc.r4 + 1 }

/-- `|a - n| < b` for a count `n`. -/
def nearCount (nf : NumFmt) (a : F64) (n : Nat) (b : F64) : Bool := F64.lt (F64.abs (F64.sub nf a (F64.ofNat nf n))) b

/-- The ratio test 1:1:3:1:1 (R234). -/
def cross5 (nf : NumFmt) (sc : Runs) : Bool :=
  if sc.r0 = 0 ∨ sc.r1 = 0 ∨ sc.r2 = 0 ∨ sc.r3 = 0 ∨ sc.r4 = 0 then false
  else if sc.total < 7 then false
  else
    let m := F64.div nf (F64.ofNat nf sc.total) (F64.ofNat nf 7)
    let mv := F64.div nf m (F64.ofNat nf 2)
    nearCount nf m sc.r0 mv && nearCount nf m sc.r1 mv
      && nearCount nf (F64.mul nf (F64.ofNat nf 3) m) sc.r2 (F64.mul nf (F64.ofNat nf 3) mv)
      && nearCount nf m sc.r3 mv && nearCount nf m sc.r4 mv

/-- The centre of a five-run window that ends before index `stop` (R235). -/
def centerFromEnd5 (nf : NumFmt) (sc : Runs) (stop : Nat) : F64 :=
  F64.sub nf (F64.ofInt nf ((stop : Int) - sc.r4 - sc.r3)) (F64.div nf (F64.ofNat nf sc.r2) (F64.ofNat nf 2))

/-! ## Walks along a line -/

/-- Walk toward index 0 over pixels of colour `c` while `more` holds of the count: `u` is the index of the next pixel
plus one, so `u = 0` is the position before the first pixel. Gives the position and the count. -/
def walkBack (px : Nat → Bool) (c : Bool) (more : Nat → Bool) : Nat → Nat → Nat × Nat
  | 0, k => (0, k)
  | u + 1, k => if px u = c ∧ more k then walkBack px c more u (k + 1) else (u + 1, k)

/-- Walk away from index 0 over at most `fuel` pixels of colour `c` while `more` holds of the count. Gives the index of
the first pixel not taken and the count. -/
def walkFwd (px : Nat → Bool) (c : Bool) (more : Nat → Bool) : Nat → Nat → Nat → Nat × Nat
  | 0, i, k => (i, k)
  | fuel + 1, i, k => if px i = c ∧ more k then walkFwd px c more fuel (i + 1) (k + 1) else (i, k)

/-- The walk shared by R236 and R237 along the line `px` of `n` pixels from `start`: the centre found, or none.
`tooFar total` is the size tolerance, the one place where the two differ. -/
def crossLine (nf : NumFmt) (px : Nat → Bool) (n start maxCount : Nat) (tooFar : Nat → Bool) : Option F64 :=
  let always := fun _ : Nat => true
  let c2 := walkBack px true always (start + 1) 0
  if c2.1 = 0 then none
  else
    let c1 := walkBack px false (fun k => k ≤ maxCount) c2.1 0
    if c1.1 = 0 ∨ c1.2 > maxCount then none
    else
      let c0 := walkBack px true (fun k => k ≤ maxCount) c1.1 0
      if c0.2 > maxCount then none
      else
        let d2 := walkFwd px true always (n - (start + 1)) (start + 1) c2.2
        if d2.1 = n then none
        else
          let d3 := walkFwd px false (fun k => k < maxCount) (n - d2.1) d2.1 0
          if d3.1 = n ∨ d3.2 ≥ maxCount then none
          else
            let d4 := walkFwd px true (fun k => k < maxCount) (n - d3.1) d3.1 0
            if d4.2 ≥ maxCount then none
            else
              let sc : Runs := { r0 := c0.2, r1 := c1.2, r2 := d2.2, r3 := d3.2, r4 := d4.2 }
              if tooFar sc.total then none
              else if cross5 nf sc then some (centerFromEnd5 nf sc d4.1)
              else none

/-- The vertical cross-check `ccv` (R236): column `cJ` from row `startI`, size tolerance 40 %. -/
def ccv (nf : NumFmt) (blk : Nat → Nat → Bool) (h startI cJ maxCount orig : Nat) : Option F64 :=
  crossLine nf (fun i => blk cJ i) h startI maxCount fun total => 5 * ((total : Int) - orig).natAbs ≥ 2 * orig

/-- The horizontal re-check `cch` (R237): row `cI` from column `startJ`, size tolerance 20 %. -/
def cch (nf : NumFmt) (blk : Nat → Nat → Bool) (w startJ cI maxCount orig : Nat) : Option F64 :=
  crossLine nf (fun j => blk j cI) w startJ maxCount fun total => 5 * ((total : Int) - orig).natAbs ≥ orig

/-- The diagonal cross-check `ccd` (R238): toward the top-left, then toward the bottom-right, no cap on the runs. -/
def ccd (nf : NumFmt) (blk : Nat → Nat → Bool) (w h cI cJ : Nat) : Bool :=
  let always := fun _ : Nat => true
  let up := fun k => blk (cJ - k) (cI - k)
  let upEnd := min cI cJ + 1
  let down := fun k => blk (cJ + k) (cI + k)
  let downEnd := min (h - cI) (w - cJ)
  let c2 := walkFwd up true always upEnd 0 0
  let c1 := walkFwd up false always (upEnd - c2.1) c2.1 0
  let c0 := walkFwd up true always (upEnd - c1.1) c1.1 0
  let d2 := walkFwd down true always (downEnd - 1) 1 c2.2
  let d3 := walkFwd down false always (downEnd - d2.1) d2.1 0
  let d4 := walkFwd down true always (downEnd - d3.1) d3.1 0
  if c2.2 = 0 ∨ c1.2 = 0 ∨ c0.2 = 0 ∨ d3.2 = 0 ∨ d4.2 = 0 then false
  else cross5 nf { r0 := c0.2, r1 := c1.2, r2 := d2.2, r3 := d3.2, r4 := d4.2 }

/-! ## The candidate list (R239, R245, R246) -/

/-- `CAND` and `STATUS.CAND_OVF` as the search goes on. -/
structure CandList where
  cand : List Candidate := []
  ovf : Bool := false
  deriving DecidableEq, Repr

/-- Is a stored observation about equal to a new one (R245, R295): within one new module size in each axis, the module
sizes within one pixel or within 100 %? -/
def closeTo (nf : NumFmt) (ox oy oms x y ems : F64) : Bool :=
  F64.le (F64.abs (F64.sub nf y oy)) ems && F64.le (F64.abs (F64.sub nf x ox)) ems
    && (F64.le (F64.abs (F64.sub nf ems oms)) (F64.ofNat nf 1) || F64.le (F64.abs (F64.sub nf ems oms)) oms)

/-- Is the entry about equal to a new observation (R245)? -/
def aboutEquals (nf : NumFmt) (c : Candidate) (x y ems : F64) : Bool := closeTo nf c.x c.y c.ms x y ems

/-- One coordinate of the running weighted average (R245): `(count * old + new) / (count + 1)`. -/
def weighted (nf : NumFmt) (count : Nat) (old new : F64) : F64 :=
  F64.div nf (F64.add nf (F64.mul nf (F64.ofNat nf count) old) new) (F64.ofNat nf (count + 1))

/-- The combined entry (R245): replaced, with one more observation. -/
def combine (nf : NumFmt) (c : Candidate) (x y ems : F64) : Candidate :=
  { x := weighted nf c.count c.x x, y := weighted nf c.count c.y y, ms := weighted nf c.count c.ms ems, count := c.count + 1 }

/-- Replace the first entry about equal to the observation (R245); none when there is no such entry. -/
def mergeFirst (nf : NumFmt) (x y ems : F64) : List Candidate → Option (List Candidate)
  | [] => none
  | c :: cs => if aboutEquals nf c x y ems then some (combine nf c x y ems :: cs) else (mergeFirst nf x y ems cs).map (c :: ·)

/-- Merge the observation, or append it, or drop it with `CAND_OVF` where the list is full (R245, R246). -/
def addCandidate (cfg : Config) (l : CandList) (x y ems : F64) : CandList :=
  match mergeFirst cfg.numFmt x y ems l.cand with
  | some cs => { l with cand := cs }
  | none =>
    if l.cand.length < cfg.maxCand then { l with cand := l.cand ++ [{ x := x, y := y, ms := ems, count := 1 }] }
    else { l with ovf := true }

/-- `handle(sc, i, j)` (R239): none where the window is not confirmed, else the candidate list that follows. The
coordinates truncated are never negative. -/
def handle (cfg : Config) (blk : Nat → Nat → Bool) (w h : Nat) (l : CandList) (sc : Runs) (i j : Nat) :
    Option CandList :=
  let total := sc.total
  match ccv cfg.numFmt blk h i (F64.trunc (centerFromEnd5 cfg.numFmt sc j)).toNat sc.r2 total with
  | none => none
  | some cI =>
    match cch cfg.numFmt blk w (F64.trunc (centerFromEnd5 cfg.numFmt sc j)).toNat (F64.trunc cI).toNat sc.r2 total with
    | none => none
    | some cJ =>
      if ccd cfg.numFmt blk w h (F64.trunc cI).toNat (F64.trunc cJ).toNat then
        some (addCandidate cfg l cJ cI (F64.div cfg.numFmt (F64.ofNat cfg.numFmt total) (F64.ofNat cfg.numFmt 7)))
      else none

/-! ## The row scanner (R232, R233) -/

/-- The row stride (R232). -/
def rowStride (tryHarder : Bool) (h : Nat) : Nat := if tryHarder then 1 else max 1 ((3 * h) / 1416)

/-- The scanner within a row: the counters, the index being filled, and the candidates so far. -/
structure ScanState where
  sc : Runs := {}
  st : Nat := 0
  out : CandList := {}
  deriving DecidableEq, Repr

/-- One pixel of a row (R233). -/
def scanPixel (cfg : Config) (blk : Nat → Nat → Bool) (w h i : Nat) (s : ScanState) (j : Nat) : ScanState :=
  if blk j i then
    let st := if s.st % 2 = 1 then s.st + 1 else s.st
    { s with sc := s.sc.bump st, st := st }
  else if s.st % 2 = 0 then
    if s.st = 4 then
      match (if cross5 cfg.numFmt s.sc then handle cfg blk w h s.out s.sc i j else none) with
      | some l => { sc := {}, st := 0, out := l }
      | none => { s with sc := { r0 := s.sc.r2, r1 := s.sc.r3, r2 := s.sc.r4, r3 := 1, r4 := 0 }, st := 3 }
    else { s with sc := s.sc.bump (s.st + 1), st := s.st + 1 }
  else { s with sc := s.sc.bump s.st }

/-- One row (R233), with the test of a pattern that touches the right edge. -/
def scanRow (cfg : Config) (blk : Nat → Nat → Bool) (w h : Nat) (l : CandList) (i : Nat) : CandList :=
  let s := (List.range w).foldl (scanPixel cfg blk w h i) { out := l }
  if cross5 cfg.numFmt s.sc then (handle cfg blk w h s.out s.sc i w).getD s.out else s.out

/-- The rows scanned (R232): from `iSkip - 1` in strides of `iSkip`. -/
def scannedRows (iSkip h : Nat) : List Nat := (List.range h).filter fun i => (i + 1) % iSkip = 0

/-- The whole search (R247). -/
def findCandidates (cfg : Config) (blk : Nat → Nat → Bool) (w h : Nat) (tryHarder : Bool) : CandList :=
  (scannedRows (rowStride tryHarder h) h).foldl (scanRow cfg blk w h) {}

/-! ## Selection (R250 to R252) -/

/-- Insert before the first entry of strictly smaller count. -/
def insertByCount (c : Candidate) : List Candidate → List Candidate
  | [] => [c]
  | d :: ds => if d.count < c.count then c :: d :: ds else d :: insertByCount c ds

/-- Sorted by count, descending and stable (R251). -/
def sortByCount (cs : List Candidate) : List Candidate := cs.foldl (fun acc c => insertByCount c acc) []

/-- The confirmed pool (R250). -/
def confirmedPool (cs : List Candidate) : List Candidate := cs.filter fun c => 2 ≤ c.count

/-- Are three module sizes mutually consistent (R251): `5.0 * hi <= 7.0 * lo`? -/
def sizesConsistent (cfg : Config) (a b c : Candidate) : Bool :=
  let lo := F64.min (F64.min a.ms b.ms) c.ms
  let hi := F64.max (F64.max a.ms b.ms) c.ms
  F64.le (F64.mul cfg.numFmt (F64.ofNat cfg.numFmt cfg.sizeRatioDen) hi) (F64.mul cfg.numFmt (F64.ofNat cfg.numFmt cfg.sizeRatioNum) lo)

/-- The first `(b, c)` in order that is consistent with `a`. -/
def firstPair (cfg : Config) (a : Candidate) : List Candidate → Option (Candidate × Candidate)
  | [] => none
  | b :: rest =>
    match rest.find? (sizesConsistent cfg a b) with
    | some c => some (b, c)
    | none => firstPair cfg a rest

/-- The first consistent triple in lexicographic index order (R251). -/
def firstTriple (cfg : Config) : List Candidate → Option (Candidate × Candidate × Candidate)
  | [] => none
  | a :: rest =>
    match firstPair cfg a rest with
    | some (b, c) => some (a, b, c)
    | none => firstTriple cfg rest

/-- The selected triple (R250, R251), or none: `NF_FEW_FINDERS` (R252). -/
def selectTriple (cfg : Config) (cs : List Candidate) : Option (Candidate × Candidate × Candidate) :=
  firstTriple cfg (sortByCount (confirmedPool cs))

/-! ## Ordering (R255, R256) -/

/-- The distance of two points (R256). -/
def dist (nf : NumFmt) (px py qx qy : F64) : F64 :=
  F64.sqrt nf (F64.add nf (F64.mul nf (F64.sub nf px qx) (F64.sub nf px qx)) (F64.mul nf (F64.sub nf py qy) (F64.sub nf py qy)))

/-- The distance of two candidates. -/
def candDist (nf : NumFmt) (p q : Candidate) : F64 := dist nf p.x p.y q.x q.y

/-- The position and module size of a candidate (R53). -/
def Candidate.toPattern (c : Candidate) : Pattern := { x := c.x, y := c.y, ms := c.ms }

/-- The three patterns in their roles (R255): bottom-left, top-left, top-right. -/
structure Ordered where
  bl : Pattern
  tl : Pattern
  tr : Pattern
  deriving DecidableEq, Repr

/-- The cross product of `C - B` and `A - B` is negative (R255). -/
def crossNegative (nf : NumFmt) (a b c : Candidate) : Bool :=
  F64.lt
    (F64.sub nf (F64.mul nf (F64.sub nf c.x b.x) (F64.sub nf a.y b.y)) (F64.mul nf (F64.sub nf c.y b.y) (F64.sub nf a.x b.x)))
    F64.zero

/-- The ends of the diagonal into their roles (R255). -/
def assignRoles (nf : NumFmt) (a b c : Candidate) : Ordered :=
  if crossNegative nf a b c then { bl := c.toPattern, tl := b.toPattern, tr := a.toPattern }
  else { bl := a.toPattern, tl := b.toPattern, tr := c.toPattern }

/-- The ordering of the triple (R255). -/
def orderPatterns (nf : NumFmt) (p0 p1 p2 : Candidate) : Ordered :=
  let d01 := candDist nf p0 p1
  let d12 := candDist nf p1 p2
  let d02 := candDist nf p0 p2
  if F64.le d01 d12 && F64.le d02 d12 then assignRoles nf p1 p0 p2
  else if F64.le d12 d02 && F64.le d01 d02 then assignRoles nf p0 p1 p2
  else assignRoles nf p0 p2 p1

end Sys2Proof.Machine
end

