-- ==== Sys2Proof/Machine/Geometry.lean ====
section
/-!
DEFINITION. Stage DET, second part: module size, dimension, alignment pattern, perspective transform and sampling
(`43_geometry_sampling.md` R280 to R311), and the stage as a whole (`42_finder_patterns.md` R230).
-/

namespace Sys2Proof.Machine

open Sys2Proof

/-! ## Module size (R280 to R283) -/

/-- A Bresenham walk (R280), the axes already exchanged where the line is steep: start, end, extents and steps. -/
structure Line where
  steep : Bool
  fx : Int
  fy : Int
  tx : Int
  ty : Int
  dx : Int
  dy : Int
  xs : Int
  ys : Int
  deriving DecidableEq, Repr

/-- The line of R280 from one pixel toward another. -/
def mkLine (fx fy tx ty : Int) : Line :=
  let steep : Bool := (ty - fy).natAbs > (tx - fx).natAbs
  let ax := if steep then fy else fx
  let ay := if steep then fx else fy
  let bx := if steep then ty else tx
  let by_ := if steep then tx else ty
  { steep := steep, fx := ax, fy := ay, tx := bx, ty := by_
    dx := ((bx - ax).natAbs : Int), dy := ((by_ - ay).natAbs : Int)
    xs := if ax < bx then 1 else -1, ys := if ay < by_ then 1 else -1 }

/-- The pixel at a place of the line. -/
def linePixel (blk : Nat → Nat → Bool) (l : Line) (x y : Int) : Bool :=
  if l.steep then blk y.toNat x.toNat else blk x.toNat y.toNat

/-- The distance of a place of the line from its start. -/
def lineDist (nf : NumFmt) (l : Line) (x y : Int) : F64 := dist nf (F64.ofInt nf x) (F64.ofInt nf y) (F64.ofInt nf l.fx) (F64.ofInt nf l.fy)

/-- The end of the walk of R280: a ring that reaches the end point counts to one step past it. -/
def bwbEnd (nf : NumFmt) (l : Line) (state : Nat) : Option F64 := if state = 2 then some (lineDist nf l (l.tx + l.xs) l.ty) else none

/-- The walk of R280: the state counts the colour changes seen, the first argument the pixels left. -/
def bwbWalk (nf : NumFmt) (blk : Nat → Nat → Bool) (l : Line) : Nat → Int → Int → Int → Nat → Option F64
  | 0, _, _, _, state => bwbEnd nf l state
  | n + 1, x, y, err, state =>
    let change : Bool := decide (state = 1) == linePixel blk l x y
    if change ∧ state = 2 then some (lineDist nf l x y)
    else
      let state' := if change then state + 1 else state
      let err' := err + l.dy
      if err' > 0 then
        if y = l.ty then bwbEnd nf l state' else bwbWalk nf blk l n (x + l.xs) (y + l.ys) (err' - l.dx) state'
      else bwbWalk nf blk l n (x + l.xs) y err' state'

/-- The black-white-black run length (R280). -/
def bwb (nf : NumFmt) (blk : Nat → Nat → Bool) (fx fy tx ty : Int) : Option F64 :=
  let l := mkLine fx fy tx ty
  bwbWalk nf blk l (l.dx.toNat + 1) l.fx l.fy (-(l.dx / 2)) 0

/-- `a / b`, a real division of integers (R281). -/
def intRatio (nf : NumFmt) (a b : Int) : F64 := F64.div nf (F64.ofInt nf a) (F64.ofInt nf b)

/-- A coordinate clipped to `0 .. n-1`, and the factor by which the other is to be scaled (R281). -/
def clipAxis (nf : NumFmt) (n : Nat) (f o : Int) : Int × F64 :=
  if o < 0 then (0, intRatio nf f (f - o))
  else if (n : Int) ≤ o then ((n : Int) - 1, intRatio nf ((n : Int) - 1 - f) (o - f))
  else (o, F64.ofNat nf 1)

/-- The run in both directions (R281), less the start pixel counted twice. -/
def bwb2 (nf : NumFmt) (blk : Nat → Nat → Bool) (w h : Nat) (fx fy tx ty : Int) : Option F64 :=
  let cx := clipAxis nf w fx (fx - (tx - fx))
  let oy := F64.trunc (F64.sub nf (F64.ofInt nf fy) (F64.mul nf (F64.ofInt nf (ty - fy)) cx.2))
  let cy := clipAxis nf h fy oy
  let ox := F64.trunc (F64.add nf (F64.ofInt nf fx) (F64.mul nf (F64.ofInt nf (cx.1 - fx)) cy.2))
  match bwb nf blk fx fy tx ty, bwb nf blk fx fy ox cy.1 with
  | some r, some r2 => some (F64.sub nf (F64.add nf r r2) (F64.ofNat nf 1))
  | _, _ => none

/-- The module size seen by one pair of patterns (R282). -/
def ms1 (nf : NumFmt) (blk : Nat → Nat → Bool) (w h : Nat) (p o : Pattern) : Option F64 :=
  let px := F64.trunc p.x
  let py := F64.trunc p.y
  let ox := F64.trunc o.x
  let oy := F64.trunc o.y
  match bwb2 nf blk w h px py ox oy, bwb2 nf blk w h ox oy px py with
  | none, none => none
  | none, some e2 => some (F64.div nf e2 (F64.ofNat nf 7))
  | some e1, none => some (F64.div nf e1 (F64.ofNat nf 7))
  | some e1, some e2 => some (F64.div nf (F64.add nf e1 e2) (F64.ofNat nf 14))

/-- The module size `MS` (R283). -/
def moduleSize (nf : NumFmt) (blk : Nat → Nat → Bool) (w h : Nat) (o : Ordered) : Except Exc F64 :=
  match ms1 nf blk w h o.tl o.tr, ms1 nf blk w h o.tl o.bl with
  | some a, some b =>
    let ms := F64.div nf (F64.add nf a b) (F64.ofNat nf 2)
    if F64.lt ms (F64.ofNat nf 1) then .error .nfModuleSize else .ok ms
  | _, _ => .error .nfModuleSize

/-! ## Dimension (R285, R286) -/

/-- The distance of two patterns in modules, rounded (R285). -/
def modulesBetween (nf : NumFmt) (p q : Pattern) (ms : F64) : Int := F64.round nf (F64.div nf (dist nf p.x p.y q.x q.y) ms)

/-- The snap to 1 mod 4 (R285): none for the residue 3. -/
def snapDim (dim : Int) : Option Int :=
  if dim % 4 = 0 then some (dim + 1)
  else if dim % 4 = 1 then some dim
  else if dim % 4 = 2 then some (dim - 1)
  else none

/-- The dimension `DIM` (R285, R286). -/
def dimension (nf : NumFmt) (o : Ordered) (ms : F64) : Except Exc Nat :=
  match snapDim ((modulesBetween nf o.tl o.tr ms + modulesBetween nf o.tl o.bl ms) / 2 + 7) with
  | none => .error .feDimension
  | some dim => if dim < 21 ∨ 177 < dim then .error .feDimension else .ok dim.toNat

/-! ## Alignment pattern (R290 to R296) -/

/-- The three run counters of the alignment search (R293). -/
structure Runs3 where
  r0 : Nat := 0
  r1 : Nat := 0
  r2 : Nat := 0
  deriving DecidableEq, Repr

/-- The sum of the three counters. -/
def Runs3.total (sc : Runs3) : Nat := sc.r0 + sc.r1 + sc.r2

/-- One more pixel in run `k`. -/
def Runs3.bump (sc : Runs3) (k : Nat) : Runs3 :=
  match k with
  | 0 => { sc with r0 := sc.r0 + 1 }
  | 1 => { sc with r1 := sc.r1 + 1 }
  | _ => { sc with r2 := sc.r2 + 1 }

/-- The ratio test 1:1:1 (R294). -/
def cross3 (nf : NumFmt) (sc : Runs3) (ms : F64) : Bool :=
  let half := F64.div nf ms (F64.ofNat nf 2)
  nearCount nf ms sc.r0 half && nearCount nf ms sc.r1 half && nearCount nf ms sc.r2 half

/-- The centre of a three-run window that ends before index `stop` (R295). -/
def centerFromEnd3 (nf : NumFmt) (sc : Runs3) (stop : Nat) : F64 :=
  F64.sub nf (F64.ofInt nf ((stop : Int) - sc.r2)) (F64.div nf (F64.ofNat nf sc.r1) (F64.ofNat nf 2))

/-- The vertical cross-check `accv` (R295). -/
def accv (nf : NumFmt) (blk : Nat → Nat → Bool) (h startI cJ maxCount orig : Nat) (ms : F64) : Option F64 :=
  let px := fun i => blk cJ i
  let capped := fun k => k ≤ maxCount
  let c1 := walkBack px true capped (startI + 1) 0
  if c1.1 = 0 ∨ c1.2 > maxCount then none
  else
    let c0 := walkBack px false capped c1.1 0
    if c0.2 > maxCount then none
    else
      let d1 := walkFwd px true capped (h - (startI + 1)) (startI + 1) c1.2
      if d1.1 = h ∨ d1.2 > maxCount then none
      else
        let d2 := walkFwd px false capped (h - d1.1) d1.1 0
        if d2.2 > maxCount then none
        else
          let sc : Runs3 := { r0 := c0.2, r1 := d1.2, r2 := d2.2 }
          if 5 * ((sc.total : Int) - orig).natAbs ≥ 2 * orig then none
          else if cross3 nf sc ms then some (centerFromEnd3 nf sc d2.1)
          else none

/-- The alignment search under way (R293): `ACAND`, whether an observation was dropped, and the pattern once one is
confirmed, after which nothing more happens. -/
structure AlignState where
  acand : List Pattern := []
  ovf : Bool := false
  hit : Option Pattern := none
  deriving DecidableEq, Repr

/-- `(a + b) / 2.0`. -/
def mean2 (nf : NumFmt) (a b : F64) : F64 := F64.div nf (F64.add nf a b) (F64.ofNat nf 2)

/-- `alignHandle(sc, i, j, ms)` (R295). -/
def alignHandle (cfg : Config) (blk : Nat → Nat → Bool) (h : Nat) (ms : F64) (s : AlignState) (sc : Runs3) (i j : Nat) :
    AlignState :=
  let cJ := centerFromEnd3 cfg.numFmt sc j
  match accv cfg.numFmt blk h i (F64.trunc cJ).toNat (2 * sc.r1) sc.total ms with
  | none => s
  | some cI =>
    let ems := F64.div cfg.numFmt (F64.ofNat cfg.numFmt sc.total) (F64.ofNat cfg.numFmt 3)
    match s.acand.find? (fun p => closeTo cfg.numFmt p.x p.y p.ms cJ cI ems) with
    | some p => { s with hit := some { x := mean2 cfg.numFmt p.x cJ, y := mean2 cfg.numFmt p.y cI, ms := mean2 cfg.numFmt p.ms ems } }
    | none =>
      if s.acand.length < cfg.maxAcand then { s with acand := s.acand ++ [{ x := cJ, y := cI, ms := ems }] }
      else { s with ovf := true }

/-- The scanner within a row of the alignment search. -/
structure AlignScan where
  sc : Runs3 := {}
  st : Nat := 0
  out : AlignState := {}
  deriving DecidableEq, Repr

/-- One pixel of a row of the alignment search (R293). -/
def alignPixel (cfg : Config) (blk : Nat → Nat → Bool) (h : Nat) (ms : F64) (i : Nat) (s : AlignScan) (j : Nat) :
    AlignScan :=
  if s.out.hit.isSome then s
  else if blk j i then
    if s.st = 1 then { s with sc := s.sc.bump 1 }
    else if s.st = 2 then
      let out := if cross3 cfg.numFmt s.sc ms then alignHandle cfg blk h ms s.out s.sc i j else s.out
      { sc := { r0 := s.sc.r2, r1 := 1, r2 := 0 }, st := 1, out := out }
    else { s with sc := s.sc.bump (s.st + 1), st := s.st + 1 }
  else
    let st := if s.st = 1 then 2 else s.st
    { s with sc := s.sc.bump st, st := st }

/-- One row of the alignment search (R293): leading white skipped, the pixels, the test at the right edge. -/
def alignRow (cfg : Config) (blk : Nat → Nat → Bool) (h : Nat) (ms : F64) (sx w : Nat) (out : AlignState) (i : Nat) :
    AlignState :=
  if out.hit.isSome then out
  else
    let cols := ((List.range w).map (sx + ·)).dropWhile fun j => !blk j i
    let s := cols.foldl (alignPixel cfg blk h ms i) { out := out }
    if s.out.hit.isSome then s.out
    else if cross3 cfg.numFmt s.sc ms then alignHandle cfg blk h ms s.out s.sc i (sx + w)
    else s.out

/-- The row visited as the `ig`-th (R293): from the middle of the region outward. -/
def alignRowIndex (mid ig : Nat) : Nat := if ig % 2 = 0 then mid + (ig + 1) / 2 else mid - (ig + 1) / 2

/-- `alignFind(sx, sy, w, rh, ms)` (R293): the pattern, if any, and whether the candidate list overflowed. -/
def alignFind (cfg : Config) (blk : Nat → Nat → Bool) (h sx sy w rh : Nat) (ms : F64) : Option Pattern × Bool :=
  let s := ((List.range rh).map (alignRowIndex (sy + rh / 2))).foldl (alignRow cfg blk h ms sx w) {}
  (match s.hit with
    | some p => some p
    | none => s.acand.head?, s.ovf)

/-- `TR - TL + BL` along one axis: the fourth corner of the parallelogram (R291, R303). -/
def fourthCorner (nf : NumFmt) (tl tr bl : F64) : F64 := F64.add nf (F64.sub nf tr tl) bl

/-- The predicted position (R291). -/
def predictAlign (nf : NumFmt) (o : Ordered) (dim : Nat) : Int × Int :=
  let corr := F64.sub nf (F64.ofNat nf 1) (F64.div nf (F64.ofNat nf 3) (F64.ofNat nf (dim - 7)))
  let along := fun (tl tr bl : F64) =>
    F64.trunc (F64.add nf tl (F64.mul nf corr (F64.sub nf (fourthCorner nf tl tr bl) tl)))
  (along o.tl.x o.tr.x o.bl.x, along o.tl.y o.tr.y o.bl.y)

/-- The widening retry over the allowances (R292). -/
def alignSearch (cfg : Config) (blk : Nat → Nat → Bool) (w h : Nat) (ms : F64) (ex ey : Int) :
    List Nat → Option Pattern × Bool
  | [] => (none, false)
  | af :: afs =>
    let al := F64.trunc (F64.mul cfg.numFmt (F64.ofNat cfg.numFmt af) ms)
    let lx := max 0 (ex - al)
    let rx := min ((w : Int) - 1) (ex + al)
    let ty := max 0 (ey - al)
    let by_ := min ((h : Int) - 1) (ey + al)
    let three := F64.mul cfg.numFmt ms (F64.ofNat cfg.numFmt 3)
    if F64.lt (F64.ofInt cfg.numFmt (rx - lx)) three then alignSearch cfg blk w h ms ex ey afs
    else if F64.lt (F64.ofInt cfg.numFmt (by_ - ty)) three then alignSearch cfg blk w h ms ex ey afs
    else
      match alignFind cfg blk h lx.toNat ty.toNat (rx - lx).toNat (by_ - ty).toNat ms with
      | (some p, ovf) => (some p, ovf)
      | (none, ovf) =>
        let r := alignSearch cfg blk w h ms ex ey afs
        (r.1, ovf || r.2)

/-- The provisional version (R286). -/
def provisionalVersion (dim : Nat) : Nat := (dim - 17) / 4

/-- The alignment pattern `AP` (R290 to R292), and whether `ACAND` overflowed. -/
def findAlignment (cfg : Config) (blk : Nat → Nat → Bool) (w h : Nat) (o : Ordered) (dim : Nat) (ms : F64) :
    Option Pattern × Bool :=
  if provisionalVersion dim = 1 then (none, false)
  else
    let e := predictAlign cfg.numFmt o dim
    alignSearch cfg blk w h ms e.1 e.2 cfg.alignAllow

/-! ## Perspective transform (R300 to R304) -/

/-- `a * b - c * d`. -/
def mulSub (nf : NumFmt) (a b c d : F64) : F64 := F64.sub nf (F64.mul nf a b) (F64.mul nf c d)

/-- `a * u + b * v + c`, left to right. -/
def affine (nf : NumFmt) (a b c u v : F64) : F64 := F64.add nf (F64.add nf (F64.mul nf a u) (F64.mul nf b v)) c

/-- `a * x + b * y + c * z`, left to right. -/
def dot3 (nf : NumFmt) (a b c x y z : F64) : F64 := F64.add nf (F64.add nf (F64.mul nf a x) (F64.mul nf b y)) (F64.mul nf c z)

/-- `a - b + c * d`, left to right. -/
def subAddMul (nf : NumFmt) (a b c d : F64) : F64 := F64.add nf (F64.sub nf a b) (F64.mul nf c d)

/-- The transform from the unit square to a quadrilateral (R301). -/
def squareToQuad (nf : NumFmt) (x0 y0 x1 y1 x2 y2 x3 y3 : F64) : Except Exc Transform :=
  let dx3 := F64.sub nf (F64.add nf (F64.sub nf x0 x1) x2) x3
  let dy3 := F64.sub nf (F64.add nf (F64.sub nf y0 y1) y2) y3
  let one := F64.ofNat nf 1
  if F64.eqv dx3 F64.zero ∧ F64.eqv dy3 F64.zero then
    .ok { a11 := F64.sub nf x1 x0, a21 := F64.sub nf x2 x1, a31 := x0
          a12 := F64.sub nf y1 y0, a22 := F64.sub nf y2 y1, a32 := y0
          a13 := F64.zero, a23 := F64.zero, a33 := one }
  else
    let dx1 := F64.sub nf x1 x2
    let dx2 := F64.sub nf x3 x2
    let dy1 := F64.sub nf y1 y2
    let dy2 := F64.sub nf y3 y2
    let den := mulSub nf dx1 dy2 dx2 dy1
    if F64.eqv den F64.zero then .error .nfDegenerateQuad
    else
      let a13 := F64.div nf (mulSub nf dx3 dy2 dx2 dy3) den
      let a23 := F64.div nf (mulSub nf dx1 dy3 dx3 dy1) den
      .ok { a11 := subAddMul nf x1 x0 a13 x1, a21 := subAddMul nf x3 x0 a23 x3, a31 := x0
            a12 := subAddMul nf y1 y0 a13 y1, a22 := subAddMul nf y3 y0 a23 y3, a32 := y0
            a13 := a13, a23 := a23, a33 := one }

/-- The adjoint (R302). -/
def adjoint (nf : NumFmt) (t : Transform) : Transform :=
  { a11 := mulSub nf t.a22 t.a33 t.a23 t.a32
    a21 := mulSub nf t.a23 t.a31 t.a21 t.a33
    a31 := mulSub nf t.a21 t.a32 t.a22 t.a31
    a12 := mulSub nf t.a13 t.a32 t.a12 t.a33
    a22 := mulSub nf t.a11 t.a33 t.a13 t.a31
    a32 := mulSub nf t.a12 t.a31 t.a11 t.a32
    a13 := mulSub nf t.a12 t.a23 t.a13 t.a22
    a23 := mulSub nf t.a13 t.a21 t.a11 t.a23
    a33 := mulSub nf t.a11 t.a22 t.a12 t.a21 }

/-- The product (R302): `o` first, then `t`. -/
def times (nf : NumFmt) (t o : Transform) : Transform :=
  { a11 := dot3 nf t.a11 t.a21 t.a31 o.a11 o.a12 o.a13
    a21 := dot3 nf t.a11 t.a21 t.a31 o.a21 o.a22 o.a23
    a31 := dot3 nf t.a11 t.a21 t.a31 o.a31 o.a32 o.a33
    a12 := dot3 nf t.a12 t.a22 t.a32 o.a11 o.a12 o.a13
    a22 := dot3 nf t.a12 t.a22 t.a32 o.a21 o.a22 o.a23
    a32 := dot3 nf t.a12 t.a22 t.a32 o.a31 o.a32 o.a33
    a13 := dot3 nf t.a13 t.a23 t.a33 o.a11 o.a12 o.a13
    a23 := dot3 nf t.a13 t.a23 t.a33 o.a21 o.a22 o.a23
    a33 := dot3 nf t.a13 t.a23 t.a33 o.a31 o.a32 o.a33 }

/-- The symbol-to-image transform `XF` (R303). -/
def symbolTransform (nf : NumFmt) (o : Ordered) (dim : Nat) (ap : Option Pattern) : Except Exc Transform :=
  let c := F64.threeAndHalf nf
  let dm3 := F64.sub nf (F64.ofNat nf dim) c
  let sbr := if ap.isSome then F64.sub nf dm3 (F64.ofNat nf 3) else dm3
  let brx := (ap.map Pattern.x).getD (fourthCorner nf o.tl.x o.tr.x o.bl.x)
  let bry := (ap.map Pattern.y).getD (fourthCorner nf o.tl.y o.tr.y o.bl.y)
  match squareToQuad nf c c dm3 c sbr sbr c dm3 with
  | .error e => .error e
  | .ok q =>
    match squareToQuad nf o.tl.x o.tl.y o.tr.x o.tr.y brx bry o.bl.x o.bl.y with
    | .error e => .error e
    | .ok s2q => .ok (times nf s2q (adjoint nf q))

/-! ## Sampling (R310) -/

/-- A pixel index after the nudge (R310): at most one outside on either side; none further out. -/
def nudge (n : Nat) (i : Int) : Option Nat :=
  if i < -1 ∨ (n : Int) < i then none else some (min (max i 0) ((n : Int) - 1)).toNat

/-- The image pixel module `(x, y)` is sampled at (R310); none is `NF_SAMPLE_OOB`. -/
def samplePoint (nf : NumFmt) (xf : Transform) (w h x y : Nat) : Option (Nat × Nat) :=
  let u := F64.add nf (F64.ofNat nf x) (F64.half nf)
  let v := F64.add nf (F64.ofNat nf y) (F64.half nf)
  let den := affine nf xf.a13 xf.a23 xf.a33 u v
  if F64.eqv den F64.zero then none
  else
    let px := F64.div nf (affine nf xf.a11 xf.a21 xf.a31 u v) den
    let py := F64.div nf (affine nf xf.a12 xf.a22 xf.a32 u v) den
    if !px.isFinite || !py.isFinite then none
    else
      match nudge w px.floor, nudge h py.floor with
      | some ix, some iy => some (ix, iy)
      | _, _ => none

/-- The values of a list of options, none when one of them is none. -/
def allSome {α : Type} : List (Option α) → Option (List α)
  | [] => some []
  | none :: _ => none
  | some a :: t => (allSome t).map (a :: ·)

/-- The sampled matrix (R310), row by row. -/
def sampleGrid (nf : NumFmt) (blk : Nat → Nat → Bool) (xf : Transform) (w h dim : Nat) : Option (List (List Bool)) :=
  allSome ((List.range dim).map fun y =>
    allSome ((List.range dim).map fun x => (samplePoint nf xf w h x y).map fun p => blk p.1 p.2))

/-! ## The stage (R230, R311) -/

/-- What a successful detection leaves: the internal state (R52, R53) and the rows of `SYM`. -/
structure DetOut where
  det : DetState
  rows : List (List Bool)
  deriving DecidableEq, Repr

/-- The outcome of the stage; `ovf` is `STATUS.CAND_OVF`, which R246 and R293 set whether or not the stage succeeds. -/
structure Detection where
  ovf : Bool
  result : Except Exc DetOut

/-- The sub-steps after the ordering (R280 to R311), `cs` being the candidates found. -/
def locate (cfg : Config) (blk : Nat → Nat → Bool) (w h : Nat) (cs : List Candidate) (o : Ordered) : Detection :=
  match moduleSize cfg.numFmt blk w h o with
  | .error e => { ovf := false, result := .error e }
  | .ok ms =>
    match dimension cfg.numFmt o ms with
    | .error e => { ovf := false, result := .error e }
    | .ok dim =>
      let a := findAlignment cfg blk w h o dim ms
      match symbolTransform cfg.numFmt o dim a.1 with
      | .error e => { ovf := a.2, result := .error e }
      | .ok xf =>
        match sampleGrid cfg.numFmt blk xf w h dim with
        | none => { ovf := a.2, result := .error .nfSampleOob }
        | some rows =>
          { ovf := a.2
            result := .ok
              { det :=
                  { cand := cs, bl := o.bl, tl := o.tl, tr := o.tr, ms := ms, dim := dim
                    pv := provisionalVersion dim, ap := a.1, xf := xf }
                rows := rows } }

/-- Stage DET (R230): search, selection, ordering, then `locate`. -/
def detect (cfg : Config) (blk : Nat → Nat → Bool) (w h : Nat) (tryHarder : Bool) : Detection :=
  let l := findCandidates cfg blk w h tryHarder
  match selectTriple cfg l.cand with
  | none => { ovf := l.ovf, result := .error .nfFewFinders }
  | some (p0, p1, p2) =>
    let d := locate cfg blk w h l.cand (orderPatterns cfg.numFmt p0 p1 p2)
    { d with ovf := l.ovf || d.ovf }

end Sys2Proof.Machine
end

