-- ==== Sys2Proof/Machine/Matrix.lean ====
section
/-!
DEFINITION. Stages PARSE and READCW and the block layout (`44_matrix_parser.md` R330 to R359), as functions of the
module accessor `mod x y` of R330 (`x` the column, `y` the row, as the pass sees the symbol).
-/

namespace Sys2Proof.Machine

open Sys2Proof

/-! ## Format information (R331 to R336) -/

/-- The modules of the first copy, bit 14 first (R331). -/
def formatPlaces1 : List (Nat × Nat) :=
  [(0, 8), (1, 8), (2, 8), (3, 8), (4, 8), (5, 8), (7, 8), (8, 8), (8, 7), (8, 5), (8, 4), (8, 3), (8, 2), (8, 1), (8, 0)]

/-- The modules of the second copy, bit 14 first (R332). -/
def formatPlaces2 (d : Nat) : List (Nat × Nat) :=
  [(8, d - 1), (8, d - 2), (8, d - 3), (8, d - 4), (8, d - 5), (8, d - 6), (8, d - 7),
   (d - 8, 8), (d - 7, 8), (d - 6, 8), (d - 5, 8), (d - 4, 8), (d - 3, 8), (d - 2, 8), (d - 1, 8)]

/-- The word read from a list of modules, the first the most significant bit. -/
def readPlaces (mod : Nat → Nat → Bool) (places : List (Nat × Nat)) : Nat :=
  fieldValue (places.map fun p => mod p.1 p.2)

/-- The number of set bits among the low 18. -/
def popcount18 (v : Nat) : Nat := (List.range 18).countP fun i => v.testBit i

/-- One comparison of R335: a strictly smaller distance replaces the best so far (distance, code). -/
def closer (best : Nat × Nat) (d k : Nat) : Nat × Nat := if d < best.1 then (d, k) else best

/-- The search of R335 over the 32 codes and the two readings: the best distance and its code. -/
def bestFormat (f1 f2 : Nat) : Nat × Nat :=
  (List.range 32).foldl (fun b k =>
    let c := formatWords.getD k 0
    closer (closer b (popcount18 ((f1 ^^^ 0x5412) ^^^ c)) k) (popcount18 ((f2 ^^^ 0x5412) ^^^ c)) k) (16, 0)

/-- The format code of two readings (R335); none beyond distance 3. -/
def matchFormat (f1 f2 : Nat) : Option Nat :=
  let b := bestFormat f1 f2
  if b.1 > 3 then none else some b.2

/-! ## Version (R337 to R342) -/

/-- The modules of the first copy, bit 17 first (R337). -/
def versionPlaces1 (d : Nat) : List (Nat × Nat) :=
  ([5, 4, 3, 2, 1, 0] : List Nat).flatMap fun y => [(d - 9, y), (d - 10, y), (d - 11, y)]

/-- The modules of the second copy, bit 17 first (R338). -/
def versionPlaces2 (d : Nat) : List (Nat × Nat) :=
  ([5, 4, 3, 2, 1, 0] : List Nat).flatMap fun x => [(x, d - 9), (x, d - 10), (x, d - 11)]

/-- The search of R340 over the 34 codes: the best distance and its version. -/
def bestVersion (r : Nat) : Nat × Nat :=
  (List.range 34).foldl (fun b k => closer b (popcount18 (r ^^^ versionWords.getD k 0)) (k + 7)) (19, 0)

/-- `matchVersion` (R340). -/
def matchVersion (cfg : Config) (r : Nat) : Option Nat :=
  let b := bestVersion r
  if b.1 ≤ cfg.versionMaxDiff then some b.2 else none

/-- A reading that agrees with the dimension (R341). -/
def versionFits (cfg : Config) (dim r : Nat) : Option Nat :=
  match matchVersion cfg r with
  | some v => if 17 + 4 * v = dim then some v else none
  | none => none

/-- The version of record (R342, R341). -/
def readVersion (cfg : Config) (mod : Nat → Nat → Bool) (dim : Nat) : Except Exc Nat :=
  let pv := (dim - 17) / 4
  if pv ≤ 6 then .ok pv
  else
    match versionFits cfg dim (readPlaces mod (versionPlaces1 dim)) with
    | some v => .ok v
    | none =>
      match versionFits cfg dim (readPlaces mod (versionPlaces2 dim)) with
      | some v => .ok v
      | none => .error .feVersionInfo

/-- What stage PARSE yields (R358). -/
structure ParseOut where
  ecbits : BitVec 2
  mask : BitVec 3
  ver : Nat
  deriving DecidableEq, Repr

/-- Stage PARSE (R358): the format information, then the version. -/
def parseSymbol (cfg : Config) (mod : Nat → Nat → Bool) (dim : Nat) : Except Exc ParseOut :=
  match matchFormat (readPlaces mod formatPlaces1) (readPlaces mod (formatPlaces2 dim)) with
  | none => .error .feFormatInfo
  | some k =>
    match readVersion cfg mod dim with
    | .error e => .error e
    | .ok v => .ok { ecbits := BitVec.ofNat 2 (k / 8), mask := BitVec.ofNat 3 (k % 8), ver := v }

/-! ## Function patterns and masks (R346, R347) -/

/-- Is `(x, y)` in the region of `w` columns and `h` rows at `(left, top)`? -/
def inRegion (left top w h x y : Nat) : Bool := left ≤ x && x < left + w && top ≤ y && y < top + h

/-- Is the alignment pattern at these centre coordinates one of the three that would overlap a finder (R346)? -/
def overlapsFinder (d cx cy : Nat) : Bool := (cy = 6 && cx = 6) || (cy = 6 && cx = d - 7) || (cy = d - 7 && cx = 6)

/-- `FUNC(x, y)` (R346). The first and last alignment centres are 6 and `D - 7` (R343). -/
def isFunction (ver x y : Nat) : Bool :=
  let d := 17 + 4 * ver
  let c := (versionInfo ver).align
  inRegion 0 0 9 9 x y || inRegion (d - 8) 0 8 9 x y || inRegion 0 (d - 8) 9 8 x y
    || inRegion 6 9 1 (d - 17) x y || inRegion 9 6 (d - 17) 1 x y
    || (7 ≤ ver && (inRegion (d - 11) 0 3 6 x y || inRegion 0 (d - 11) 6 3 x y))
    || c.any fun cy => c.any fun cx => !overlapsFinder d cx cy && inRegion (cx - 2) (cy - 2) 5 5 x y

/-- `maskbit(MASK, i, j)` (R347): `i` the row, `j` the column. -/
def maskBit (mask i j : Nat) : Bool :=
  match mask with
  | 0 => (i + j) % 2 = 0
  | 1 => i % 2 = 0
  | 2 => j % 3 = 0
  | 3 => (i + j) % 3 = 0
  | 4 => (i / 2 + j / 3) % 2 = 0
  | 5 => (i * j) % 2 + (i * j) % 3 = 0
  | 6 => ((i * j) % 2 + (i * j) % 3) % 2 = 0
  | _ => ((i + j) % 2 + (i * j) % 3) % 2 = 0

/-! ## The codeword walk (R352) -/

/-- The modules of one column pair in walk order, as (column, row): the right column first at each row. -/
def pairPlaces (dim j : Nat) (up : Bool) : List (Nat × Nat) :=
  (List.range dim).flatMap fun cnt =>
    let i := if up then dim - 1 - cnt else cnt
    [(j, i), (j - 1, i)]

/-- The modules from the column pair at `j` leftward, column 6 skipped as a pair boundary. The first argument bounds
the number of pairs. -/
def walkPlaces (dim : Nat) : Nat → Nat → Bool → List (Nat × Nat)
  | 0, _, _ => []
  | n + 1, j, up =>
    if j = 0 then []
    else
      let j' := if j = 6 then 5 else j
      pairPlaces dim j' up ++ walkPlaces dim n (j' - 2) (!up)

/-- The data bits in walk order, function modules skipped and the mask removed. -/
def walkBits (mod : Nat → Nat → Bool) (dim ver mask : Nat) : List Bool :=
  ((walkPlaces dim dim (dim - 1) true).filter fun p => !isFunction ver p.1 p.2).map fun p =>
    xor (mod p.1 p.2) (maskBit mask p.2 p.1)

/-- Bits packed into bytes, most significant first; up to 7 bits left over are discarded. -/
def packBytes : List Bool → List Byte
  | b7 :: b6 :: b5 :: b4 :: b3 :: b2 :: b1 :: b0 :: rest =>
    BitVec.ofNat 8 (fieldValue [b7, b6, b5, b4, b3, b2, b1, b0]) :: packBytes rest
  | _ => []

/-- Stage READCW (R352, R353, R359). -/
def readCodewords (mod : Nat → Nat → Bool) (dim ver mask : Nat) : Except Exc (List Byte) :=
  let cw := packBytes (walkBits mod dim ver mask)
  if cw.length ≠ (versionInfo ver).total then .error .feCwCount else .ok cw

/-! ## Blocks (R355 to R357) -/

/-- The data lengths `nd[b]` of the blocks, in group order (R355). -/
def blockLengths (l : EcLayout) : List Nat := l.groups.flatMap fun g => List.replicate g.1 g.2

/-- The place in `CW` of byte `k` of block `b` (R356, closed form): the short parts dealt round-robin, then the extra
data codeword of each longer block, then the EC codewords round-robin. -/
def codewordPlace (nds : List Nat) (b k : Nat) : Nat :=
  let nb := nds.length
  let short := nds.headD 0
  let nd := nds.getD b 0
  if k < short then k * nb + b
  else if k < nd then short * nb + (nds.take b).countP fun n => n > short
  else nds.sum + (k - nd) * nb + b

/-- The blocks de-interleaved from `CW` (R356). -/
def deinterleave (cw : Nat → Byte) (nds : List Nat) (ec : Nat) : List (List Byte) :=
  (List.range nds.length).map fun b =>
    (List.range (nds.getD b 0 + ec)).map fun k => cw (codewordPlace nds b k)

/-- `DATA`: the data parts of the blocks in block order (R357). -/
def assembleData (nds : List Nat) (blocks : List (List Byte)) : List Byte :=
  (List.zipWith (fun n blk => blk.take n) nds blocks).flatten

end Sys2Proof.Machine
end

