-- ==== Sys2Proof/Machine/ReedSolomon.lean ====
section
/-!
DEFINITION. The field GF(256), the Reed-Solomon block decoder and stage EC (`45_reed_solomon.md` R380 to R401). The
decoder is the procedure of R392 to R396, which R397 says computes the declarative rule R390 (log 17).
-/

namespace Sys2Proof.Machine

open Sys2Proof

/-! ## The field (R380 to R382) -/

/-- `EXP[i]` for `i` up to 255. -/
def expAt (i : Nat) : Byte := BitVec.ofNat 8 (expTable.getD i 0)

/-- `LOG[a]`; the entry for 0 is never used. -/
def logAt (a : Byte) : Nat := logTable.getD a.toNat 0

/-- `gfmul` (R382). -/
def gfmul (a b : Byte) : Byte := if a = 0 ∨ b = 0 then 0 else expAt ((logAt a + logAt b) % 255)

/-- `gfinv` (R382). -/
def gfinv (a : Byte) : Byte := expAt ((255 - logAt a) % 255)

/-- `gfpow(i)`: the `i`-th power of the generator element (R382). -/
def gfpow (i : Nat) : Byte := expAt (i % 255)

/-- The defining form of the product (R380), from bit `k-1` of `b` down: `r` doubled modulo 0x11D, `a` added where the
bit is set. -/
def gfmulSlowGo (a b : Byte) : Nat → Byte → Byte
  | 0, r => r
  | k + 1, r =>
    let d := if r.msb then (r <<< 1) ^^^ 0x1D#8 else r <<< 1
    gfmulSlowGo a b k (if b.getLsbD k then d ^^^ a else d)

/-- `gfmul_slow` (R380). -/
def gfmulSlow (a b : Byte) : Byte := gfmulSlowGo a b 8 0

/-! ## Polynomials (R383): coefficients highest degree first -/

/-- The normal form: no leading zero but for the zero polynomial `[0]`. -/
def pnorm (p : List Byte) : List Byte :=
  match p.dropWhile fun c => c = 0 with
  | [] => [0]
  | c :: cs => c :: cs

/-- Coefficient-wise sum of two lists given lowest degree first. -/
def addLow : List Byte → List Byte → List Byte
  | [], b => b
  | a, [] => a
  | x :: a, y :: b => (x ^^^ y) :: addLow a b

/-- The product of two lists given lowest degree first. -/
def mulLow : List Byte → List Byte → List Byte
  | [], _ => []
  | x :: a, b => addLow (b.map (gfmul x)) (0 :: mulLow a b)

/-- `padd`. -/
def padd (a b : List Byte) : List Byte := pnorm (addLow a.reverse b.reverse).reverse

/-- `pmul`. -/
def pmul (a b : List Byte) : List Byte := pnorm (mulLow a.reverse b.reverse).reverse

/-- `pscale`. -/
def pscale (a : List Byte) (s : Byte) : List Byte := pnorm (a.map fun c => gfmul c s)

/-- `pmono(d, c)`: `c * x^d`. -/
def pmono (d : Nat) (c : Byte) : List Byte := if c = 0 then [0] else c :: List.replicate d 0

/-- `pcoef(p, k)`: the coefficient of `x^k`. -/
def pcoef (p : List Byte) (k : Nat) : Byte := p.reverse.getD k 0

/-- `peval(p, a)`: Horner's rule. -/
def peval (p : List Byte) (a : Byte) : Byte := p.foldl (fun r c => gfmul r a ^^^ c) 0

/-- The degree; 0 for the zero polynomial. -/
def pdeg (p : List Byte) : Nat := p.length - 1

/-- Is this the zero polynomial? -/
def pIsZero (p : List Byte) : Bool := p == [0]

/-- The leading coefficient. -/
def plead (p : List Byte) : Byte := p.headD 0

/-! ## The block decoder (R392 to R396) -/

/-- The syndromes `S[0 .. ec-1]` (R392). -/
def syndromes (rec : List Byte) (ec : Nat) : List Byte := (List.range ec).map fun i => peval rec (gfpow i)

/-- Is the vector in the code `C(n, ec)` (R386)? -/
def isCodeVector (c : List Byte) (ec : Nat) : Bool := (List.range ec).all fun i => peval c (gfpow i) = 0

/-- The number of positions where two vectors differ (R390). -/
def byteDist (a b : List Byte) : Nat := (List.zipWith (fun x y => x != y) a b).countP fun d => d

/-- The inner division of R393: the quotient and the remainder, in at most so many steps. -/
def euclidDivide (rl : List Byte) (inv : Byte) : Nat → List Byte → List Byte → List Byte × List Byte
  | 0, q, r => (q, r)
  | n + 1, q, r =>
    if pdeg rl ≤ pdeg r ∧ !pIsZero r then
      let m := pmono (pdeg r - pdeg rl) (gfmul (plead r) inv)
      euclidDivide rl inv n (padd q m) (padd r (pmul rl m))
    else (q, r)

/-- The Euclidean iteration of R393 until `2 * deg r < ec`: the last `t` and `r`, or failure. Each round lowers the
degree of `r`, so `ec` rounds are enough. -/
def euclidLoop (ec : Nat) : Nat → (rl r tl t : List Byte) → Option (List Byte × List Byte)
  | 0, _, _, _, _ => none
  | n + 1, rl, r, tl, t =>
    if 2 * pdeg r < ec then some (t, r)
    else if pIsZero r then none
    else
      let d := euclidDivide r (gfinv (plead r)) (ec + 2) [0] rl
      let t' := padd (pmul d.1 t) tl
      if pdeg r ≤ pdeg d.2 then none else euclidLoop ec n r d.2 t t'

/-- The error locator and the error evaluator (R393). -/
def keyEquation (s : List Byte) (ec : Nat) : Option (List Byte × List Byte) :=
  match euclidLoop ec (ec + 1) (pmono ec 1) (pnorm s.reverse) [0] [1] with
  | none => none
  | some (t, r) =>
    let s0 := pcoef t 0
    if s0 = 0 then none else some (pscale t (gfinv s0), pscale r (gfinv s0))

/-- The error locations (R394): the inverses of the roots of the locator, as many as its degree, or failure. -/
def chien (sigma : List Byte) : Option (List Byte) :=
  let roots := ((List.range 255).map fun i => BitVec.ofNat 8 (i + 1)).filter fun e => peval sigma e = 0
  let locs := (roots.take (pdeg sigma)).map gfinv
  if locs.length ≠ pdeg sigma then none else some locs

/-- The magnitude at the location of index `a` (R395). -/
def forneyMagnitude (omega locs : List Byte) (a : Nat) : Byte :=
  let xi := gfinv (locs.getD a 0)
  let den := (locs.eraseIdx a).foldl (fun d y => gfmul d (1 ^^^ gfmul y xi)) 1
  gfmul (peval omega xi) (gfinv den)

/-- The corrections of R395 for the locations of the given indices; failure where one lies outside the block. -/
def forney (omega locs : List Byte) : List Nat → List Byte → Option (List Byte)
  | [], out => some out
  | a :: as, out =>
    let l := logAt (locs.getD a 0)
    if out.length ≤ l then none
    else
      let pos := out.length - 1 - l
      forney omega locs as (out.set pos (out.getD pos 0 ^^^ forneyMagnitude omega locs a))

/-- Locating and correcting the errors of a block with the syndromes `s` (R393 to R395). -/
def correctErrors (rec : List Byte) (ec : Nat) (s : List Byte) : Option (List Byte) :=
  match keyEquation s ec with
  | none => none
  | some (sigma, omega) =>
    match chien sigma with
    | none => none
    | some locs => forney omega locs (List.range locs.length) rec

/-- `rsDecode(rec, ec)` (R390): the corrected block and the number of bytes changed, or none, which is
`CE_UNCORRECTABLE`. -/
def rsDecode (rec : List Byte) (ec : Nat) : Option (List Byte × Nat) :=
  if isCodeVector rec ec then some (rec, 0)
  else
    match correctErrors rec ec (syndromes rec ec) with
    | none => none
    | some out =>
      let nerr := byteDist out rec
      if isCodeVector out ec && nerr ≤ ec / 2 then some (out, nerr) else none

/-! ## Stage EC (R400) -/

/-- Decode the blocks in order (R400): the corrected blocks and the sum of the error counts; the first failure ends. -/
def decodeBlocks (ec : Nat) : List (List Byte) → Option (List (List Byte) × Nat)
  | [] => some ([], 0)
  | b :: bs =>
    match rsDecode b ec with
    | none => none
    | some (c, e) => (decodeBlocks ec bs).map fun r => (c :: r.1, e + r.2)

/-- What stage EC yields: `DATA` and `NERR`. -/
structure EcOut where
  data : List Byte
  nerr : Nat
  deriving DecidableEq, Repr

/-- Stage EC (R400) as a function of the codewords. -/
def correctSymbol (cw : Nat → Byte) (ver : Nat) (ecbits : BitVec 2) : Except Exc EcOut :=
  let l := ecLayout ver ecbits
  let nds := blockLengths l
  match decodeBlocks l.ec (deinterleave cw nds l.ec) with
  | none => .error .ceUncorrectable
  | some (blocks, nerr) => .ok { data := assembleData nds blocks, nerr := nerr }

end Sys2Proof.Machine
end

