-- ==== Sys2Proof/Machine/Stages.lean ====
section
/-!
DEFINITION. The stage steps of the engine (`47_sequencer_commands.md` R472): each runs the function of its stage on the
inputs the memories hold and stores the outputs (`20_memory.md` R89), or raises. The stage BITS is entered here; its
instructions are stepped one at a time (`46_bitstream_parser.md` R422; log 1).
-/

namespace Sys2Proof.Machine

open Sys2Proof

/-- `IMG(x, y)` of the frame in use (R41). -/
def imgAt (s : State) (x y : Nat) : Bool := matrixBit s.cfg s.mem .imgbits s.imgWidth.toNat x y

/-- `mod(x, y)` (R330): the symbol in pass 0, its transpose in pass 1. -/
def moduleAt (s : State) (x y : Nat) : Bool :=
  if s.pass then matrixBit s.cfg s.mem .symbits (symDim s) y x else matrixBit s.cfg s.mem .symbits (symDim s) x y

/-- The stage is over without an exception (R472): `STATUS.STAGE` becomes the next of the sequence. -/
def stageDone (s : State) (done : Stage) : State := { s with stage := nextStage s.cmd done }

/-- Stage BIN (R200): `LUMA` to `IMGBITS`. -/
def stageBin (s : State) : State :=
  let w := s.imgWidth.toNat
  let h := s.imgHeight.toNat
  match binarize s.cfg (lumaAt s.cfg s.mem w) w h with
  | .error e => raise s e
  | .ok r => stageDone { s with mem := storeBytes s.cfg s.mem .imgbits 0 (packMatrix r.rows w), binPath := r.path } .bin

/-- Stage DET (R230): `IMGBITS` to `SYMBITS`. `CAND_OVF` is set whether or not the stage succeeds (R246, R293). -/
def stageDet (s : State) : State :=
  let d := detect s.cfg (imgAt s) s.imgWidth.toNat s.imgHeight.toNat (hintTryHarder s.hints)
  let s1 := { s with candOvf := s.candOvf || d.ovf }
  match d.result with
  | .error e => raise s1 e
  | .ok r => stageDone { s1 with mem := storeBytes s.cfg s.mem .symbits 0 (packMatrix r.rows r.det.dim), det := r.det } .det

/-- Stage PARSE (R358). -/
def stageParse (s : State) : State :=
  match parseSymbol s.cfg (moduleAt s) (symDim s) with
  | .error e => raise s e
  | .ok p => stageDone { s with sym := { s.sym with ecbits := p.ecbits, mask := p.mask, ver := p.ver } } .parse

/-- Stage READCW (R359): `SYMBITS` to `CW`. -/
def stageReadcw (s : State) : State :=
  match readCodewords (moduleAt s) (symDim s) s.sym.ver s.sym.mask.toNat with
  | .error e => raise s e
  | .ok cw => stageDone { s with mem := storeBytes s.cfg s.mem .cw 0 cw, sym := { s.sym with ncw := cw.length } } .readcw

/-- The received block of RSDECODE: `CW[0 .. ARG0-1]` (R401). -/
def rsInput (s : State) : List Byte := memLoad s.mem (regionBase s.cfg .cw) s.arg0.toNat

/-- Stage EC for RSDECODE (R401): one block, corrected in place on success. -/
def stageEcBlock (s : State) : State :=
  match rsDecode (rsInput s) s.arg1.toNat with
  | none => raise s .ceUncorrectable
  | some (out, nerr) =>
    stageDone { s with mem := storeBytes s.cfg s.mem .cw 0 out, ec := { s.ec with nerr := nerr } } .ec

/-- Stage EC of a symbol (R400): `CW` to `DATA`. -/
def stageEcSymbol (s : State) : State :=
  match correctSymbol (regionByte s.cfg s.mem .cw) s.sym.ver s.sym.ecbits with
  | .error e => raise s e
  | .ok r =>
    stageDone
      { s with
        mem := storeBytes s.cfg s.mem .data 0 r.data
        ec := { nerr := r.nerr, ndata := BitVec.ofNat 12 r.data.length } } .ec

/-- Stage EC. -/
def stageEc (s : State) : State :=
  if s.cmd = .rsdecode then stageEcBlock s else stageEcSymbol s

/-- One step of the engine (R472): nothing when it is not BUSY (R535), else the stage `STATUS.STAGE` names, or the end
step. BUSY with stage NONE is no state of the machine (log 12). -/
def engineStep (s : State) : Host.Outcome State Fault Refusal :=
  if s.st = .busy then
    match s.stage with
    | .none => .fault .sequencerStuck
    | .bin => .next (stageBin s)
    | .det => .next (stageDet s)
    | .parse => .next (stageParse s)
    | .readcw => .next (stageReadcw s)
    | .ec => .next (stageEc s)
    | .bits => .next (enterBits s)
    | .fin => .next (endStep s)
  else .next s

/-! ## Fetch (R421, R422) -/

/-- The instruction at the bit cursor, or why there is none. -/
def fetchSegment (s : State) : Except Sys2Proof.Reject Instr :=
  decodeSegment (tierOf s.bits.ver) (dataBit s.cfg s.mem) (streamEnd s) s.bits.bitpos.toNat

/-- No instruction at the cursor: the end of the stream stops the loop (R142, R422), truncation raises (R421). -/
def noSegment (s : State) : Sys2Proof.Reject → State
  | .endOfStream => finishBits s
  | .truncated => raise s .feTruncated

/-- The reset transition (R550): any state, memory contents as given (log 4), the build and the rest of the host's
events kept. -/
def resetTo (s : State) (m : List Host.Cell) (rest : List HostEvent) : State :=
  { State.resetWith s.cfg (memOfCells s.cfg m) with host := rest }

/-- The state after power-up of a build (R551): its `INIT_MEM` in memory. `State.reset` is that of the default build. -/
def powerUp (cfg : Config) : State := State.resetWith cfg (memOfCells cfg cfg.initMem)

/-! ## Placing an instruction where the next step fetches (log 10) -/

/-- The bytes of a bit string given by position, most significant bit first, `n` of them. -/
def streamBytes (bit : Nat → Bool) (n : Nat) : List Byte :=
  (List.range n).map fun k => BitVec.ofNat 8 (fieldValue (streamBits bit (8 * k) 8))

/-- A command word as the host's next access: a write of `CMD`. A running command is put aside, for `CMD` is not
accepted while BUSY. -/
def placeCommand (s : State) (w : Nat) : State :=
  { s with
    st := if s.st = .busy then .idle else s.st
    stage := if s.st = .busy then .none else s.stage
    bits := { s.bits with running := false }
    host := .write (BitVec.ofNat 32 (s.cfg.base + 4)) .b4 (BitVec.ofNat 32 w) :: s.host }

/-- A segment as the contents of `DATA` from bit 0, under way in the stage BITS of a PARSEBITS of 2956 data bytes of
version 1; every bit from `nbits` on is 0. -/
def placeSegment (s : State) (nbits w : Nat) : State :=
  { s with
    st := .busy
    stage := .bits
    pass := false
    cmd := .parsebits
    arg0 := 2956
    arg1 := 1
    bits := { running := true, ver := 1, ndata := 2956 }
    mem :=
      storeBytes s.cfg (clearRegion s.cfg s.mem .data) .data 0
        (streamBytes (tableStreamBit (w % 2 ^ nbits)) ((nbits + 7) / 8)) }

end Sys2Proof.Machine
end

