-- ==== Sys2Proof/Machine/Step.lean ====
section
/-!
DEFINITION. The step of the machine and the placing of an instruction where the step fetches it. While the instruction
loop of the stage BITS is under way a step is one of its instructions; otherwise the next event of the host list decides
(log 1): an access, a reset, or the engine's own step.
-/

namespace Sys2Proof.Machine

open Sys2Proof

/-- One instruction of the stage BITS: fetched and executed, or the end of the loop. -/
def segmentStep (s : State) : Host.Outcome State Fault Refusal :=
  match fetchSegment s with
  | .ok i => exec i s
  | .error r => .next (noSegment s r)

/-- A host write: a word written to `CMD` is decoded and executed (R470), anything else is `MemWrite` (R85). -/
def hostWriteStep (s : State) (addr : Word) (n : Width) (v : Word) : Host.Outcome State Fault Refusal :=
  if isCmdWrite s addr n then exec (decodeCommand v) s else .next (hostWrite s addr n v)

/-- One step. -/
def step (s : State) : Host.Outcome State Fault Refusal :=
  if s.bits.running then segmentStep s
  else
    match s.host with
    | [] => engineStep s
    | .engine :: es => engineStep { s with host := es }
    | .read addr n :: es => .next (hostRead { s with host := es } addr n)
    | .write addr n v :: es => hostWriteStep { s with host := es } addr n v
    | .rst m :: es => .next (resetTo s m es)

/-- The state with an instruction placed where the next step fetches it (log 9, log 10): a command word as the host's
next write to `CMD`, a segment as the contents of `DATA` at the bit cursor of a running stage BITS. -/
def State.withFetchWord (s : State) (nbits w : Nat) : State :=
  if nbits > 24 then placeCommand s (w % 2 ^ nbits) else placeSegment s nbits w

end Sys2Proof.Machine
end

