-- ==== Sys2Proof/Safety.lean ====
section
/-!
DEFINITION. What holds in every state the machine reaches, as a predicate every step keeps, and the terms the claims
are written in: what a step leaves alone, and what stands in memory.
-/

namespace Sys2Proof.Machine

open Sys2Proof

/-! ## The invariant -/

/-- The stages a command runs, the end step among them (R472). -/
def runsStage (c : Command) (s : Stage) : Bool :=
  match c with
  | .none => false
  | .decode => s != .none
  | .binarize => s == .bin || s == .fin
  | .detect => s == .det || s == .fin
  | .decodesym => inDecoder s || s == .fin
  | .rsdecode => s == .ec || s == .fin
  | .parsebits => s == .bits || s == .fin
  | .reserved => false

/-- The memory is in canonical form and lists only addresses that have storage (R86). -/
def memoryOk (s : State) : Bool := memWf s.mem && s.mem.all fun c => hasStorage s.cfg c.1

/-- `STATUS`, `CAUSE` and the result registers agree on how the machine stands (R25, R27, R58, R474, R510): while BUSY
there is neither result nor cause, the stage is one the command runs, and the operands passed their checks; after FAIL
or FATAL the cause says why, where, and there is no result. -/
def outcomeOk (s : State) : Bool :=
  match s.st with
  | .idle => s.stage == .none && s.cause == none && s.res == {} && !s.pass && !s.candOvf
  | .busy => s.cause == none && s.res == {} && runsStage s.cmd s.stage && acceptCheck s.cmd s == none
  | .done => s.stage == .fin && s.cause == none
  | .fail => match s.cause with
    | some e => s.stage == excStage e && excState e == .fail && s.res == {}
    | none => false
  | .fatal => match s.cause with
    | some e => s.stage == excStage e && excState e == .fatal && s.res == {} && !s.pass
    | none => false

/-- Outside a command there is no per-attempt state (R20). -/
def quietOk (s : State) : Bool := s.st == .busy || freshInternal s .none == s

/-- Pass 1 is the mirror pass of DECODE or DECODESYM, with the exception of pass 0 latched (R56, R476). -/
def passOk (s : State) : Bool :=
  s.st != .busy ||
    (if s.pass then
      (s.cmd == .decode || s.cmd == .decodesym) && (inDecoder s.stage || s.stage == .fin) &&
        (match s.exc0 with
          | some e => (excKind e == .format || excKind e == .checksum) && inDecoder (excStage e)
          | none => false)
    else s.exc0 == none)

/-- The bit cursor is within the data (R26, R421), and what has been appended fits the memories and the registers that
report it (R423): at most 3 bytes of text per 10 bits, one entry per 4 bits. -/
def cursorOk (s : State) : Bool :=
  s.bits.bitpos.toNat ≤ streamEnd s && 10 * s.bits.tlen ≤ 3 * s.bits.bitpos.toNat
    && 4 * s.bits.nseg ≤ s.bits.bitpos.toNat && s.bits.ndata.toNat ≤ 2956 && s.ec.ndata.toNat ≤ 2956

/-- The instruction loop runs only in the stage BITS of a running command (R422). -/
def loopOk (s : State) : Bool := !s.bits.running || (s.st == .busy && s.stage == .bits)

/-- What the loop runs over is what the command names (R357, R420, R475, R486): `ARG0` bytes and the version of `ARG1`
for PARSEBITS, else `NDATA` and the version of record. -/
def streamOk (s : State) : Bool :=
  !s.bits.running || (s.bits.ndata == dataLength s && s.bits.ver == streamVersion s)

/-- The invariant. The build meets its constraints (`92_eei_decisions.md` section 7), which no step changes. -/
def MachineInv (s : State) : Prop :=
  s.cfg.legal = true ∧ streamOk s = true ∧ memoryOk s = true ∧ outcomeOk s = true ∧ quietOk s = true ∧ passOk s = true
    ∧ cursorOk s = true ∧ loopOk s = true

/-! ## What stands in memory -/

/-- Does the address lie in one of the windows? -/
def inWindows (cfg : Config) (rs : List Region) (a : Nat) : Bool := rs.any fun r => inWindow cfg r a

/-- Every byte outside the given set of addresses reads in `t` as it reads in `s`. -/
def memSameBut (s t : State) (changed : Nat → Bool) : Prop :=
  ∀ a, changed a = false → memRead t.mem a = memRead s.mem a

/-- The windows of the regions read 0 and every other address reads as before. -/
def zeroedWindows (s t : State) (rs : List Region) : Prop :=
  ∀ a, memRead t.mem a = if inWindows s.cfg rs a then 0#8 else memRead s.mem a

/-- The `i`-th of the bytes from address `a` on. -/
def bytesAt (s : State) (a : Nat) (bs : List Byte) : Prop := ∀ k, k < bs.length → memRead s.mem (a + k) = bs.getD k 0

/-- The four words of entry `k` of `SEG` (R46, R424): `MODE | CSKIND << 4`, `VALUE`, `OFFSET`, `LENGTH`. -/
def segEntryAt (s : State) (k mode cskind : Nat) (value : Word) (offset len : Nat) : Prop :=
  bytesAt s (regionBase s.cfg .seg + 16 * k)
    (wordBytes (BitVec.ofNat 32 (mode + 16 * cskind)) ++ wordBytes value ++ wordBytes (BitVec.ofNat 32 offset)
      ++ wordBytes (BitVec.ofNat 32 len))

/-- The addresses an instruction that appends `n` bytes of text and one entry stores to, in the state before it. -/
def appendPlaces (s : State) (n : Nat) (a : Nat) : Bool :=
  (regionBase s.cfg .text + s.bits.tlen ≤ a && a < regionBase s.cfg .text + s.bits.tlen + n)
    || (regionBase s.cfg .seg + 16 * s.bits.nseg ≤ a && a < regionBase s.cfg .seg + 16 * s.bits.nseg + 16)

/-- There is room in `TEXT` for `n` bytes more and in `SEG` for one entry more. -/
def roomFor (s : State) (n : Nat) : Prop := s.bits.tlen + n ≤ 8192 ∧ s.bits.nseg < 5912

/-! ## What an instruction does -/

/-- What a segment instruction that appends the text `bs` and the entry `(mode, cskind, value)` does (R424, R431 to
R448), from `s` to `t`, the bit-stream registers ending as `b` says: the memory gets those bytes and nothing else, and
every register outside the bit-stream state is unchanged. -/
def AppendsTo (s t : State) (b : BitsState) (mode cskind : Nat) (value : Word) (bs : List Byte) : Prop :=
  t = { s with bits := b, mem := t.mem }
    ∧ bytesAt t (regionBase s.cfg .text + s.bits.tlen) bs
    ∧ segEntryAt t s.bits.nseg mode cskind value s.bits.tlen bs.length
    ∧ memSameBut s t (appendPlaces s bs.length)

/-- What the acceptance of a command does (R471, R472), from `s` to `t`: BUSY at the first stage, per-attempt state,
`PASS`, `CAND_OVF`, `CAUSE` and the result registers cleared, the output windows zeroed; every other register and
every other byte unchanged. -/
def AcceptedAs (s t : State) (c : Command) (first : Stage) (outs : List Region) : Prop :=
  t = { s with
        st := .busy, stage := first, pass := false, candOvf := false, cause := none, res := {}, cmd := c
        exc0 := none, binPath := false, det := {}, sym := {}, ec := {}, bits := {}, mem := t.mem }
    ∧ zeroedWindows s t outs

/-- What the end of a command by the exception `e` leaves (R510), from `s` to `t`: `CAUSE`, `STAGE`, `STATE` and the
interrupt bit of `e`, no result, no per-attempt state, the output windows zeroed; `PASS` as given, every other register
and every other byte unchanged. -/
def EndsWith (s t : State) (e : Exc) (pass candOvf : Bool) (outs : List Region) : Prop :=
  t = { s with
        st := excState e, stage := excStage e, pass := pass, candOvf := candOvf, cause := some e, res := {}
        irqPend := s.irqPend ||| excIrq e, cmd := .none
        exc0 := none, binPath := false, det := {}, sym := {}, ec := {}, bits := {}, mem := t.mem }
    ∧ zeroedWindows s t outs

/-- What the mirror edge on the exception `e` does (R476), from `s` to `t`: `e` latched, pass 1 begins at PARSE with
fresh matrix-parser, error-correction and bit-stream state, the windows of `CW`, `DATA`, `TEXT` and `SEG` zeroed. -/
def Mirrors (s t : State) (e : Exc) : Prop :=
  t = { s with
        exc0 := some e, pass := true, stage := .parse, sym := {}, ec := {}, bits := {}, mem := t.mem }
    ∧ zeroedWindows s t [.cw, .data, .text, .seg]

/-- The exception a command reports that ends on `e` (R478): in pass 1 the one latched in pass 0. -/
def Reports (s : State) (e reported : Exc) : Prop := if s.pass then s.exc0 = some reported else reported = e

/-- The exception `e` is raised in `s` (R476, R478, R510), leaving `t`: DECODE and DECODESYM in pass 0 catch a Format or
Checksum exception of PARSE, READCW, EC or BITS and mirror; anything else ends the command. Pass 1 with no exception
latched is no state of the machine, and nothing is said of it (log 18). -/
def RaisesExc (s t : State) (e : Exc) : Prop :=
  if (s.cmd = .decode ∨ s.cmd = .decodesym) ∧ s.pass = false ∧ (excKind e = .format ∨ excKind e = .checksum)
      ∧ (excStage e = .parse ∨ excStage e = .readcw ∨ excStage e = .ec ∨ excStage e = .bits)
  then Mirrors s t e
  else ∀ reported, Reports s e reported → EndsWith s t reported s.pass s.candOvf (outputs s.cmd)

/-! ## What the engine's turn is -/

/-- The next step of `s` is the engine's, on the state `u` (log 1): the instruction loop is not under way, and the host
has nothing due or has given the engine its turn. -/
def EngineTurn (s u : State) : Prop :=
  s.bits.running = false ∧ (s.host = [] ∧ u = s ∨ ∃ rest, s.host = .engine :: rest ∧ u = { s with host := rest })

/-- The dimension of the symbol in hand (R330): `ARG0` for DECODESYM, else the detector's. -/
def dimInHand (s : State) : Nat := if s.cmd = .decodesym then s.arg0.toNat else s.det.dim

/-- `IMG(x, y)` (R47): bit `x mod 32` of the word R87 gives. -/
def imageSeen (s : State) (x y : Nat) : Bool :=
  (memRead s.mem (s.cfg.base + 0x02000000 + 4 * (y * ((s.imgWidth.toNat + 31) / 32) + x / 32) + x % 32 / 8)).getLsbD
    (x % 8)

/-- The place of a module in the walk of R352: column pairs from the right edge leftward, column 6 left out, the first
pair upward, the next downward, and so on, the right column of a pair first at each row. -/
def walkKey (dim : Nat) (p : Nat × Nat) : Nat :=
  let column := if 6 < p.1 then dim - 1 - p.1 else dim - 2 - p.1
  let row := if column / 2 % 2 = 0 then dim - 1 - p.2 else p.2
  2 * (column / 2 * dim + row) + column % 2

/-- The symbol as the pass in hand sees it (R47, R330): bit `x mod 32` of the word R87 gives, in pass 1 transposed. -/
def symbolSeen (s : State) (x y : Nat) : Bool :=
  let bit := fun (x y : Nat) =>
    (memRead s.mem (s.cfg.base + 0x03000000 + 4 * (y * ((dimInHand s + 31) / 32) + x / 32) + x % 32 / 8)).getLsbD (x % 8)
  if s.pass then bit y x else bit x y

/-! ## The register map -/

/-- What each register reads as, by its offset (R21, R24, R28 to R39): the fields from the highest bit down, the bits a
register does not have 0. The words of `CAUSE` by exception are the statement CauseWords. -/
def registerWords (s : State) : List (Nat × Word) :=
  [
    (0x00, 0x51524431),
    (0x04, 0),
    (0x08, 0#21 ++ BitVec.ofBool s.candOvf ++ BitVec.ofBool s.hosterr ++ BitVec.ofBool s.pass
      ++ BitVec.ofNat 4 ([Stage.none, .bin, .det, .parse, .readcw, .ec, .bits, .fin].idxOf s.stage) ++ 0#1
      ++ BitVec.ofNat 3 ([RunState.idle, .busy, .done, .fail, .fatal].idxOf s.st)),
    (0x0C, causeWord s.cause),
    (0x10, s.imgWidth), (0x14, s.imgHeight), (0x18, s.hints),
    (0x1C, s.irqEn), (0x20, 0#29 ++ s.irqPend),
    (0x24, s.arg0), (0x28, s.arg1),
    (0x30, 0#24 ++ s.res.dim), (0x34, 0#26 ++ s.res.version),
    (0x38, 0#27 ++ s.res.mask ++ s.res.ecbits),
    (0x3C, 0#25 ++ BitVec.ofBool s.res.flags.eciSeen ++ BitVec.ofBool s.res.flags.binPath
      ++ BitVec.ofBool s.res.flags.alignFound ++ BitVec.ofBool s.res.flags.saPresent
      ++ BitVec.ofBool s.res.flags.fnc1Second ++ BitVec.ofBool s.res.flags.fnc1First
      ++ BitVec.ofBool s.res.flags.mirrored),
    (0x40, 0#18 ++ s.res.textLen), (0x44, 0#20 ++ s.res.rawLen), (0x48, 0#17 ++ s.res.numBits),
    (0x4C, 0#20 ++ s.res.errors), (0x50, 0#19 ++ s.res.nseg),
    (0x54, 0#16 ++ s.res.saParity ++ s.res.saSeq), (0x58, 0#24 ++ s.res.fnc1App),
    (0x5C, 0#29 ++ s.res.npoints), (0x60, 0#20 ++ s.res.ncw), (0x64, 0#17 ++ s.res.bitpos),
    (0x68, 0#25 ++ s.res.ncand),
    (0x80, s.res.pt0.x.extractLsb' 0 32), (0x84, s.res.pt0.x.extractLsb' 32 32),
    (0x88, s.res.pt0.y.extractLsb' 0 32), (0x8C, s.res.pt0.y.extractLsb' 32 32),
    (0x90, s.res.pt1.x.extractLsb' 0 32), (0x94, s.res.pt1.x.extractLsb' 32 32),
    (0x98, s.res.pt1.y.extractLsb' 0 32), (0x9C, s.res.pt1.y.extractLsb' 32 32),
    (0xA0, s.res.pt2.x.extractLsb' 0 32), (0xA4, s.res.pt2.x.extractLsb' 32 32),
    (0xA8, s.res.pt2.y.extractLsb' 0 32), (0xAC, s.res.pt2.y.extractLsb' 32 32),
    (0xB0, s.res.pt3.x.extractLsb' 0 32), (0xB4, s.res.pt3.x.extractLsb' 32 32),
    (0xB8, s.res.pt3.y.extractLsb' 0 32), (0xBC, s.res.pt3.y.extractLsb' 32 32),
    (0xC0, s.res.moduleSize.extractLsb' 0 32), (0xC4, s.res.moduleSize.extractLsb' 32 32)]

/-! ## Legal operands (R33, R473) -/

/-- A valid hint configuration (R33). -/
def HintsLegal (h : Word) : Prop :=
  h.extractLsb' 6 2 = 0 ∧ (h.getLsbD 3 = true → h.getLsbD 4 = true) ∧ (h.getLsbD 2 = true → h.extractLsb' 28 4 = 0)

/-- A frame size in range (R31, R32). -/
def FrameLegal (s : State) : Prop :=
  1 ≤ s.imgWidth.toNat ∧ s.imgWidth.toNat ≤ s.cfg.maxW ∧ 1 ≤ s.imgHeight.toNat ∧ s.imgHeight.toNat ≤ s.cfg.maxH

/-! ## Text of the counted modes, from the characters -/

/-- The groups that encode decimal digits (R134). -/
def digitGroups : List Nat → List Nat
  | a :: b :: c :: rest => (100 * a + 10 * b + c) :: digitGroups rest
  | [a, b] => [10 * a + b]
  | [a] => [a]
  | [] => []

/-- The groups that encode symbols of the 45-symbol table by their indices (R135). -/
def symbolGroups : List Nat → List Nat
  | a :: b :: rest => (45 * a + b) :: symbolGroups rest
  | [a] => [a]
  | [] => []

/-- Is some group of `c` digits out of range (R134)? -/
def digitGroupIllegal : Nat → List Nat → Bool
  | c + 3, x :: xs => x ≥ 1000 || digitGroupIllegal c xs
  | 2, x :: _ => x ≥ 100
  | 1, x :: _ => x ≥ 10
  | _, _ => false

/-- Is some group of `c` alphanumeric symbols out of range (R135)? -/
def symbolGroupIllegal : Nat → List Nat → Bool
  | c + 2, x :: xs => x ≥ 2025 || symbolGroupIllegal c xs
  | 1, x :: _ => x ≥ 45
  | _, _ => false

/-- The 45 symbols in index order (R432). -/
def symbolChars : List Char :=
  ['0', '1', '2', '3', '4', '5', '6', '7', '8', '9', 'A', 'B', 'C', 'D', 'E', 'F', 'G', 'H', 'I', 'J', 'K', 'L', 'M',
   'N', 'O', 'P', 'Q', 'R', 'S', 'T', 'U', 'V', 'W', 'X', 'Y', 'Z', ' ', '$', '%', '*', '+', '-', '.', '/', ':']

/-- The bit-stream state after an instruction of `n` bits that appends `len` bytes and one entry. -/
def cursorPast (b : BitsState) (n len : Nat) : BitsState :=
  { b with bitpos := b.bitpos + BitVec.ofNat 15 n, tlen := b.tlen + len, nseg := b.nseg + 1 }

/-- The `code` of a 13-bit value in a two-byte set (R435, R436): the quotient by `d` over the remainder, plus one of two
offsets, by a limit. -/
def twoByteCode (d limit low high x : Nat) : Nat :=
  let a := ((x / d) <<< 8) ||| (x % d)
  if a < limit then a + low else a + high

end Sys2Proof.Machine
end

