-- ==== Sys2Proof/Certificates/Slice0/Obligations.lean ====
section
/-!
DEFINITION. The statements. Each docstring names the rule of spec/ it formalises. The terms they are written in stand
in Sys2Proof/Safety.lean.
-/

open Sys2Proof Sys2Proof.Machine

/-! ## Encoding -/

/-- R120, R122, R124: every 32-bit word is a command and encodes back to itself; every command decodes from its word. -/
def Obligations.CommandWordsRoundTrip : Prop :=
  (∀ (t : Tier) (i : Instr) (w : BitVec 32),
      i.isCommand = true → i.wf t = true → encode t i = .word w → decodeCommand w = i) ∧
  (∀ (t : Tier) (w : BitVec 32),
      (decodeCommand w).isCommand = true ∧ (decodeCommand w).wf t = true ∧ encode t (decodeCommand w) = .word w)

/-- R130 to R142: wherever the encoding of a well-formed segment stands in the stream, at any position, any tier and with
any bits around it, the decoder reads that segment. -/
def Obligations.SegmentsRoundTrip : Prop :=
  ∀ (t : Tier) (i : Instr) (b : List Bool) (bit : Nat → Bool) (pos stop : Nat),
    i.isCommand = false → i.wf t = true → encode t i = .bits b →
    (∀ k, k < b.length → bit (pos + k) = b.getD k false) → pos + b.length ≤ stop →
    decodeSegment t bit stop pos = .ok i

/-- R130 to R142, the other direction: what the decoder reads is a well-formed segment, its encoding stands at the
cursor bit for bit, and lies wholly before the end of the data. -/
def Obligations.DecodedSegmentsStandInStream : Prop :=
  ∀ (t : Tier) (i : Instr) (bit : Nat → Bool) (pos stop : Nat), decodeSegment t bit stop pos = .ok i →
    i.isCommand = false ∧ i.wf t = true ∧
    ∃ b, encode t i = .bits b ∧ pos + b.length ≤ stop ∧ ∀ k, k < b.length → bit (pos + k) = b.getD k false

/-- R122, R124, R131, R432 and `95_test_vectors.md` V7: words and bit strings written out from the encodings decode to
the instructions they stand for. -/
def Obligations.SampleEncodingsDecode : Prop :=
  decodeCommand 0x00000005 = .rsdecode ∧ decodeCommand 0x00000007 = .clear ∧ decodeCommand 0x0000000C = .reservedCmdC ∧
  decodeCommand 0x80000001 = .reservedCmdNonzeroUpper 1 0x8000000 ∧
  decodeSegment .low (fun p => [false, false, false, true, false, false, false, false, false, false, false, false, false,
    true, false, true, true, true].getD p false) 18 0 = .ok (.numeric 1 [7]) ∧
  decodeSegment .low (fun p => [true, false, false, true, false, false, true, false, false, true, false, true].getD p
    false) 12 0 = .ok (.fnc1Second 0x25) ∧
  decodeSegment .high (fun p => [true, true, false, true, false, false, true, false].getD p false) 8 0 =
    .ok (.hanzi 2 [])

/-! ## Steps -/

/-- R35, R470: a 32-bit write of `w` to `CMD` executes the command `w` decodes to. -/
def Obligations.StepRunsCommandWord : Prop :=
  ∀ (s : State) (a w : Word) (rest : List HostEvent),
    s.bits.running = false → a.toNat = s.cfg.base + 4 → s.host = .write a .b4 w :: rest →
    step s = exec (decodeCommand w) { s with host := rest }

/-- R421, R422: in the instruction loop of BITS, the segment that decodes at `BITPOS` is the one executed. -/
def Obligations.StepRunsSegment : Prop :=
  ∀ (s : State) (i : Instr), s.bits.running = true →
    decodeSegment (tierOf s.bits.ver) (dataBit s.cfg s.mem) (8 * s.bits.ndata.toNat) s.bits.bitpos.toNat = .ok i →
    step s = exec i s

/-- R142, R422, R430, R472: fewer than 4 bits left end the loop; nothing is read, and the command goes on to its end
step. That `STATUS.STAGE` is END until then is log 22. -/
def Obligations.StepStopsAtStreamEnd : Prop :=
  ∀ s : State, s.bits.running = true → 8 * s.bits.ndata.toNat < s.bits.bitpos.toNat + 4 →
    step s = .next { s with bits := { s.bits with running := false }, stage := .fin }

/-- R421: a segment that runs past the end of the data raises `FE_TRUNCATED`. -/
def Obligations.StepRaisesTruncated : Prop :=
  ∀ s : State, s.bits.running = true →
    decodeSegment (tierOf s.bits.ver) (dataBit s.cfg s.mem) (8 * s.bits.ndata.toNat) s.bits.bitpos.toNat =
      .error .truncated →
    ∃ t, step s = .next t ∧ RaisesExc s t .feTruncated

/-- R91, R92: outside the instruction loop the host's events are served in order, each completely; with none due the
engine takes its step. Log 1 says how events stand in the state. -/
def Obligations.StepServesEventsInOrder : Prop :=
  ∀ (s : State) (rest : List HostEvent), s.bits.running = false →
    (s.host = [] → step s = engineStep s) ∧
    (s.host = .engine :: rest → step s = engineStep { s with host := rest }) ∧
    (∀ a n, s.host = .read a n :: rest → step s = .next (hostRead { s with host := rest } a n)) ∧
    (∀ a n v, s.host = .write a n v :: rest → (a.toNat ≠ s.cfg.base + 4 ∨ n ≠ .b4) →
      step s = .next (hostWrite { s with host := rest } a n v)) ∧
    (∀ m, s.host = .rst m :: rest → ∃ t, step s = .next t ∧ t.host = rest ∧ t.cfg = s.cfg)

/-! ## Commands -/

/-- R470: a word written to `CMD` while BUSY is ignored and sets `HOSTERR`, whatever it is. -/
def Obligations.BusyIgnoresCommands : Prop :=
  ∀ (s : State) (w : Word), s.st = .busy → exec (decodeCommand w) s = .next { s with hosterr := true }

/-- R480: NOP, the word 0, changes nothing; issued while BUSY it sets `HOSTERR`. -/
def Obligations.NopChangesNothing : Prop :=
  decodeCommand 0x00000000 = .nop ∧
  ∀ s : State, (s.st ≠ .busy → exec .nop s = .next s) ∧ (s.st = .busy → exec .nop s = .next { s with hosterr := true })

/-- R488: CLEAR, the word 7, with steps 1 to 3 of R471: `STATUS`, `CAUSE`, `IRQ_PEND` and the results 0, everything else
kept; ignored while BUSY. -/
def Obligations.ClearClearsStatus : Prop :=
  decodeCommand 0x00000007 = .clear ∧
  ∀ s : State,
    (s.st ≠ .busy →
      exec .clear s = .next
        { s with
          st := .idle, stage := .none, pass := false, hosterr := false, candOvf := false, cause := none, irqPend := 0
          res := {}, cmd := .none, exc0 := none, binPath := false, det := {}, sym := {}, ec := {}, bits := {} }) ∧
    (s.st = .busy → exec .clear s = .next { s with hosterr := true })

/-- R471, R472, R473, R481 to R486: each of the six commands with legal operands is accepted. DECODE and DETECT need legal
hints and a frame in range, BINARIZE a frame in range whatever `HINTS` holds, DECODESYM a dimension from 21 to 177 that
is 1 mod 4, RSDECODE 1 ≤ ARG1 ≤ ARG0 ≤ 255 (and zeroes no memory), PARSEBITS 1 to 2956 bytes and in `ARG1` a version and
a level code. -/
def Obligations.CommandsAccepted : Prop :=
  ∀ s : State, s.st ≠ .busy →
    (HintsLegal s.hints → FrameLegal s →
      ∃ t, exec .decode s = .next t ∧ AcceptedAs s t .decode .bin [.imgbits, .symbits, .cw, .data, .text, .seg]) ∧
    (FrameLegal s → ∃ t, exec .binarize s = .next t ∧ AcceptedAs s t .binarize .bin [.imgbits]) ∧
    (HintsLegal s.hints → FrameLegal s → ∃ t, exec .detect s = .next t ∧ AcceptedAs s t .detect .det [.symbits]) ∧
    (HintsLegal s.hints → 21 ≤ s.arg0.toNat → s.arg0.toNat ≤ 177 → s.arg0.toNat % 4 = 1 →
      ∃ t, exec .decodesym s = .next t ∧ AcceptedAs s t .decodesym .parse [.cw, .data, .text, .seg]) ∧
    (1 ≤ s.arg1.toNat → s.arg1.toNat ≤ s.arg0.toNat → s.arg0.toNat ≤ 255 →
      ∃ t, exec .rsdecode s = .next t ∧ AcceptedAs s t .rsdecode .ec [] ∧ t.mem = s.mem) ∧
    (HintsLegal s.hints → 1 ≤ s.arg0.toNat → s.arg0.toNat ≤ 2956 → s.arg1.toNat < 1024 → 1 ≤ s.arg1.toNat % 256 →
      s.arg1.toNat % 256 ≤ 40 →
      ∃ t, exec .parsebits s = .next t ∧ AcceptedAs s t .parsebits .bits [.text, .seg])

/-- R124, R473, R505: every reserved command word ends FATAL with `PV_BAD_CMD`; no memory is touched. -/
def Obligations.ReservedCommandsFatal : Prop :=
  ∀ (s : State) (i : Instr), s.st ≠ .busy →
    (i ∈ [Instr.reservedCmd8, .reservedCmd9, .reservedCmdA, .reservedCmdB, .reservedCmdC, .reservedCmdD, .reservedCmdE,
        .reservedCmdF] ∨ ∃ op upper, i = .reservedCmdNonzeroUpper op upper) →
    ∃ t, exec i s = .next t ∧ EndsWith s t .pvBadCmd false false [] ∧ t.mem = s.mem

/-- R473, checks 2 to 4: an invalid hint configuration is `PV_BAD_HINT` for the four commands that check it, before
the checks of sizes and arguments; a zero size is `PV_ZERO_SIZE`, a size above `MAX_W` or `MAX_H`
`PV_SIZE_RANGE`, the zero test first. The output memories have been zeroed. -/
def Obligations.BadHintsAndFramesFatal : Prop :=
  ∀ (s : State) (i : Instr) (outs : List Region), s.st ≠ .busy →
    (¬ HintsLegal s.hints →
      (i, outs) ∈ [(Instr.decode, [Region.imgbits, .symbits, .cw, .data, .text, .seg]), (.detect, [.symbits]),
        (.decodesym, [.cw, .data, .text, .seg]), (.parsebits, [.text, .seg])] →
      ∃ t, exec i s = .next t ∧ EndsWith s t .pvBadHint false false outs) ∧
    (¬ FrameLegal s →
      ((i, outs) ∈ [(Instr.decode, [Region.imgbits, .symbits, .cw, .data, .text, .seg]), (.detect, [.symbits])] ∧
          HintsLegal s.hints ∨ (i, outs) = (.binarize, [.imgbits])) →
      ∃ t, exec i s = .next t ∧
        EndsWith s t (if s.imgWidth = 0 ∨ s.imgHeight = 0 then .pvZeroSize else .pvSizeRange) false false outs)

/-- R473, check 4: arguments out of range are `PV_BAD_ARG`. -/
def Obligations.BadArgumentsFatal : Prop :=
  ∀ s : State, s.st ≠ .busy →
    (HintsLegal s.hints → ¬ (21 ≤ s.arg0.toNat ∧ s.arg0.toNat ≤ 177 ∧ s.arg0.toNat % 4 = 1) →
      ∃ t, exec .decodesym s = .next t ∧ EndsWith s t .pvBadArg false false [.cw, .data, .text, .seg]) ∧
    (¬ (1 ≤ s.arg1.toNat ∧ s.arg1.toNat ≤ s.arg0.toNat ∧ s.arg0.toNat ≤ 255) →
      ∃ t, exec .rsdecode s = .next t ∧ EndsWith s t .pvBadArg false false []) ∧
    (HintsLegal s.hints →
      ¬ (1 ≤ s.arg0.toNat ∧ s.arg0.toNat ≤ 2956 ∧ s.arg1.toNat < 1024 ∧ 1 ≤ s.arg1.toNat % 256 ∧
        s.arg1.toNat % 256 ≤ 40) →
      ∃ t, exec .parsebits s = .next t ∧ EndsWith s t .pvBadArg false false [.text, .seg])

/-- R17, R471: an accepted DECODE depends on nothing but the frame, its size, the hints and what no command writes: two
states that agree on these are equal after acceptance, bytes and registers. -/
def Obligations.AcceptedDecodeForgetsThePast : Prop :=
  ∀ (s s' : State), s.cfg.legal = true → s'.cfg = s.cfg → memoryOk s = true → memoryOk s' = true →
    s.st ≠ .busy → s'.st ≠ .busy → HintsLegal s.hints → FrameLegal s →
    s'.imgWidth = s.imgWidth → s'.imgHeight = s.imgHeight → s'.hints = s.hints →
    (∀ a, inWindow s.cfg .luma a = true → memRead s'.mem a = memRead s.mem a) →
    ∃ t t', exec .decode s = .next t ∧ exec .decode s' = .next t' ∧ t.mem = t'.mem ∧
      t = { t' with
            hosterr := s.hosterr, irqEn := s.irqEn, irqPend := s.irqPend, arg0 := s.arg0, arg1 := s.arg1
            host := s.host, rdata := s.rdata }

/-! ## Segments -/

/-- R430, R472: TERMINATOR stops the loop, the cursor just after its 4 bits; no entry, no flag, no output. That
`STATUS.STAGE` is END until the end step is log 22. -/
def Obligations.TerminatorStops : Prop :=
  ∀ s : State, exec .terminator s =
    .next { s with bits := { s.bits with running := false, bitpos := s.bits.bitpos + 4 }, stage := .fin }

/-- R134, R431: NUMERIC appends its digits in ASCII, leading zeros kept, and one entry; `COUNT = 0` among them. -/
def Obligations.NumericAppendsDigits : Prop :=
  ∀ (s : State) (ds : List Nat), (∀ d ∈ ds, d < 10) → memWf s.mem = true → roomFor s ds.length →
    ∃ t, exec (.numeric ds.length (digitGroups ds)) s = .next t ∧
      AppendsTo s t
        (cursorPast s.bits
          (4 + countWidth .numeric (tierOf s.bits.ver) + (10 * (ds.length / 3) + [0, 4, 7].getD (ds.length % 3) 0))
          ds.length)
        0x1 3 0 (ds.map fun d => BitVec.ofNat 8 (48 + d))

/-- R135, R432, R433: ALPHANUMERIC appends its symbols in ASCII and one entry, whatever FNC1 flags are set. -/
def Obligations.AlphanumericAppendsSymbols : Prop :=
  ∀ (s : State) (ks : List Nat), (∀ k ∈ ks, k < 45) → memWf s.mem = true → roomFor s ks.length →
    ∃ t, exec (.alphanumeric ks.length (symbolGroups ks)) s = .next t ∧
      AppendsTo s t
        (cursorPast s.bits
          (4 + countWidth .alphanumeric (tierOf s.bits.ver) + (11 * (ks.length / 2) + 6 * (ks.length % 2))) ks.length)
        0x2 3 0 (ks.map fun k => BitVec.ofNat 8 (symbolChars.getD k '?').toNat)

/-- R434: BYTE appends its bytes unchanged; its entry names the active ECI, else the hint, else neither. -/
def Obligations.ByteAppendsPayload : Prop :=
  ∀ (s : State) (p : List (BitVec 8)), memWf s.mem = true → roomFor s p.length →
    ∃ t, exec (.byte p) s = .next t ∧
      AppendsTo s t (cursorPast s.bits (4 + countWidth .byte (tierOf s.bits.ver) + 8 * p.length) p.length) 0x4
        (if s.bits.eciActive then 2 else if s.hints.getLsbD 2 then 1 else 0)
        (if s.bits.eciActive then s.bits.eciValue.setWidth 32 else if s.hints.getLsbD 2 then s.hints >>> 8 else 0) p

/-- R435, R436: KANJI appends two bytes of Shift-JIS for each 13-bit value, HANZI of subset 1 two bytes of GB2312. -/
def Obligations.DoubleByteModesAppend : Prop :=
  ∀ (s : State) (ks : List (BitVec 13)), memWf s.mem = true → roomFor s (2 * ks.length) →
    (∃ t, exec (.kanji ks) s = .next t ∧
      AppendsTo s t
        (cursorPast s.bits (4 + countWidth .kanji (tierOf s.bits.ver) + 13 * ks.length) (2 * ks.length)) 0x8 4 0
        (ks.flatMap fun x =>
          let a := twoByteCode 0xC0 0x1F00 0x8140 0xC140 x.toNat
          [BitVec.ofNat 8 (a >>> 8), BitVec.ofNat 8 (a &&& 0xFF)])) ∧
    (∃ t, exec (.hanzi 1 ks) s = .next t ∧
      AppendsTo s t
        (cursorPast s.bits (4 + 4 + countWidth .hanzi (tierOf s.bits.ver) + 13 * ks.length) (2 * ks.length)) 0xD 5 0
        (ks.flatMap fun x =>
          let a := twoByteCode 0x60 0x0A00 0xA1A1 0xA6A1 x.toNat
          [BitVec.ofNat 8 (a >>> 8), BitVec.ofNat 8 (a &&& 0xFF)]))

/-- R445: STRUCTURED_APPEND records sequence and parity, the register with the sequence byte low, the entry with it
high. -/
def Obligations.StructuredAppendRecords : Prop :=
  ∀ (s : State) (q r : BitVec 8), memWf s.mem = true → roomFor s 0 →
    ∃ t, exec (.structuredAppend q r) s = .next t ∧
      AppendsTo s t { cursorPast s.bits 20 0 with sa := r ++ q, saSeen := true } 0x3 0
        ((q.setWidth 32 <<< 8) ||| r.setWidth 32) []

/-- R446, R447: FNC1_FIRST sets its flag; FNC1_SECOND sets its own and keeps the application indicator; each appends an
entry and no text. -/
def Obligations.Fnc1Records : Prop :=
  ∀ (s : State) (a : BitVec 8), memWf s.mem = true → roomFor s 0 →
    (∃ t, exec .fnc1First s = .next t ∧ AppendsTo s t { cursorPast s.bits 4 0 with fnc1a := true } 0x5 0 0 []) ∧
    (∃ t, exec (.fnc1Second a) s = .next t ∧
      AppendsTo s t { cursorPast s.bits 12 0 with app := a, fnc1b := true } 0x9 0 (a.setWidth 32) [])

/-- R139, R448: ECI of any of its three lengths makes its value the active character set and appends an entry. -/
def Obligations.EciActivatesCharset : Prop :=
  ∀ (s : State) (d : EciDesignator) (e : BitVec 21) (n : Nat), memWf s.mem = true → roomFor s 0 →
    ((∃ v : BitVec 7, d = .one v ∧ e = v.setWidth 21 ∧ n = 8) ∨
      (∃ v : BitVec 14, d = .two v ∧ e = v.setWidth 21 ∧ n = 16) ∨ (d = .three e ∧ n = 24)) →
    ∃ t, exec (.eci d) s = .next t ∧
      AppendsTo s t { cursorPast s.bits (4 + n) 0 with eciActive := true, eciValue := e, eciSeen := true } 0x7 0
        (e.setWidth 32) []

/-- R143, R449: the six reserved mode values decode, whatever bits follow, to the six reserved instructions, and each of
these raises `FE_MODE`. -/
def Obligations.ReservedModesRaise : Prop :=
  ∀ (m : Nat) (i : Instr),
    (m, i) ∈ [(0x6, Instr.reservedMode6), (0xA, .reservedModeA), (0xB, .reservedModeB), (0xC, .reservedModeC),
      (0xE, .reservedModeE), (0xF, .reservedModeF)] →
    (∀ (t : Tier) (bit : Nat → Bool) (stop pos : Nat),
      pos + 4 ≤ stop → (∀ k, k < 4 → bit (pos + k) = m.testBit (3 - k)) → decodeSegment t bit stop pos = .ok i) ∧
    (∀ s : State, ∃ t, exec i s = .next t ∧ RaisesExc s t .feMode)

/-- R134, R135, R138, R139, R431, R433, R436, R448: a digit group or symbol group out of range raises `FE_VALUE`, wherever
it stands; a HANZI subset other than 1 raises `FE_HANZI_SUBSET`, an ECI designator beginning `111` raises `FE_ECI`. -/
def Obligations.IllegalOperandsRaise : Prop :=
  ∀ (s : State),
    (∀ (tier : Tier) (c : Nat) (gs : List Nat), (Instr.numeric c gs).wf tier = true → digitGroupIllegal c gs = true →
      ∃ t, exec (.numeric c gs) s = .next t ∧ RaisesExc s t .feValue) ∧
    (∀ (tier : Tier) (c : Nat) (gs : List Nat), (Instr.alphanumeric c gs).wf tier = true →
      symbolGroupIllegal c gs = true → ∃ t, exec (.alphanumeric c gs) s = .next t ∧ RaisesExc s t .feValue) ∧
    (∀ (subset : BitVec 4) (ks : List (BitVec 13)), subset ≠ 1 →
      ∃ t, exec (.hanzi subset ks) s = .next t ∧ RaisesExc s t .feHanziSubset) ∧
    (∀ low : BitVec 5, ∃ t, exec (.eci (.illegal low)) s = .next t ∧ RaisesExc s t .feEci)

/-! ## Exceptions and the end of a command -/

/-- R476, R478, R510: what raising any exception does in any state. In pass 1 an exception is latched; a state that says
otherwise is none of the machine's, and nothing is claimed of it (log 18). -/
def Obligations.RaiseRule : Prop := ∀ (s : State) (e : Exc), RaisesExc s (raise s e) e

/-- R28, R500, R501: the words of `CAUSE`, by exception; the outcome state and the interrupt bit by kind. -/
def Obligations.CauseWords : Prop :=
  [Exc.nfBinDegenerate, .nfBinContrast, .nfFewFinders, .nfModuleSize, .nfSampleOob, .nfDegenerateQuad, .feDimension,
    .feFormatInfo, .feVersionInfo, .feCwCount, .feMode, .feTruncated, .feValue, .feEci, .feHanziSubset,
    .ceUncorrectable, .pvZeroSize, .pvSizeRange, .pvBadCmd, .pvBadArg, .pvBadHint].map (fun e => causeWord (some e)) =
  [0x0111, 0x0211, 0x0321, 0x0421, 0x0521, 0x0621, 0x1022, 0x1132, 0x1232, 0x1342, 0x1462, 0x1562, 0x1662, 0x1762,
    0x1862, 0x2053, 0x3004, 0x3104, 0x3204, 0x3304, 0x3404] ∧
  causeWord none = 0 ∧
  (∀ e, (excState e = .fatal ↔ excKind e = .precondition) ∧ (excState e = .fail ↔ excKind e ≠ .precondition) ∧
    excIrq e = if excKind e = .precondition then 4 else 2)

/-- R474, R475, R477: the end step. The state is DONE, stage END, no cause, interrupt bit 0 pending; of the result
registers exactly those the command's column lists are written, the rest stay 0. That the per-attempt state ends empty
is the model's choice (log 15). -/
def Obligations.EndStepReports : Prop :=
  ∀ s u : State, EngineTurn s u → u.st = .busy → u.stage = .fin →
    ∃ t, step s = .next t ∧
      t = { u with
            st := .done, cause := none, irqPend := u.irqPend ||| 1, res := t.res, cmd := .none, exc0 := none
            binPath := false, det := {}, sym := {}, ec := {}, bits := {} } ∧
      (u.cmd = .binarize → t.res = { flags := { binPath := u.binPath } }) ∧
      (u.cmd = .detect → t.res =
        { dim := BitVec.ofNat 8 u.det.dim, npoints := if u.det.ap.isSome then 4 else 3
          pt0 := patternReg u.det.bl, pt1 := patternReg u.det.tl, pt2 := patternReg u.det.tr
          pt3 := (u.det.ap.map patternReg).getD {}, moduleSize := u.det.ms.toBits
          ncand := BitVec.ofNat 7 u.det.cand.length, flags := { alignFound := u.det.ap.isSome } }) ∧
      (u.cmd = .decodesym → t.res =
        { dim := BitVec.ofNat 8 u.arg0.toNat, version := BitVec.ofNat 6 u.sym.ver, ecbits := u.sym.ecbits
          mask := u.sym.mask, textLen := BitVec.ofNat 14 u.bits.tlen, nseg := BitVec.ofNat 13 u.bits.nseg
          bitpos := u.bits.bitpos, saSeq := u.bits.sa.extractLsb' 0 8, saParity := u.bits.sa.extractLsb' 8 8
          fnc1App := u.bits.app, rawLen := u.ec.ndata, numBits := BitVec.ofNat 15 (8 * u.ec.ndata.toNat)
          errors := BitVec.ofNat 12 u.ec.nerr, ncw := BitVec.ofNat 12 u.sym.ncw
          flags :=
            { mirrored := u.pass, fnc1First := u.bits.fnc1a, fnc1Second := u.bits.fnc1b, saPresent := u.bits.saSeen
              eciSeen := u.bits.eciSeen } }) ∧
      (u.cmd = .rsdecode → t.res = { errors := BitVec.ofNat 12 u.ec.nerr, ncw := u.arg0.extractLsb' 0 12 }) ∧
      (u.cmd = .parsebits → t.res =
        { version := u.arg1.extractLsb' 0 6, ecbits := u.arg1.extractLsb' 8 2
          textLen := BitVec.ofNat 14 u.bits.tlen, nseg := BitVec.ofNat 13 u.bits.nseg, bitpos := u.bits.bitpos
          saSeq := u.bits.sa.extractLsb' 0 8, saParity := u.bits.sa.extractLsb' 8 8, fnc1App := u.bits.app
          rawLen := u.arg0.extractLsb' 0 12, numBits := BitVec.ofNat 15 (8 * (u.arg0.extractLsb' 0 12).toNat)
          flags :=
            { fnc1First := u.bits.fnc1a, fnc1Second := u.bits.fnc1b, saPresent := u.bits.saSeen
              eciSeen := u.bits.eciSeen } }) ∧
      (u.cmd = .decode → t.res =
        { dim := BitVec.ofNat 8 u.det.dim, version := BitVec.ofNat 6 u.sym.ver, ecbits := u.sym.ecbits
          mask := u.sym.mask, textLen := BitVec.ofNat 14 u.bits.tlen, nseg := BitVec.ofNat 13 u.bits.nseg
          bitpos := u.bits.bitpos, saSeq := u.bits.sa.extractLsb' 0 8, saParity := u.bits.sa.extractLsb' 8 8
          fnc1App := u.bits.app, rawLen := u.ec.ndata, numBits := BitVec.ofNat 15 (8 * u.ec.ndata.toNat)
          errors := BitVec.ofNat 12 u.ec.nerr, ncw := BitVec.ofNat 12 u.sym.ncw
          npoints := if u.det.ap.isSome then 4 else 3
          pt0 := patternReg u.det.bl, pt1 := patternReg u.det.tl, pt2 := patternReg u.det.tr
          pt3 := (u.det.ap.map patternReg).getD {}, moduleSize := u.det.ms.toBits
          ncand := BitVec.ofNat 7 u.det.cand.length
          flags :=
            { mirrored := u.pass, fnc1First := u.bits.fnc1a, fnc1Second := u.bits.fnc1b, saPresent := u.bits.saSeen
              eciSeen := u.bits.eciSeen, alignFound := u.det.ap.isSome, binPath := u.binPath } })

/-! ## The host port -/

/-- R21, R24, R28 to R39, R84: a 32-bit read at each offset of the register map, in every state, BUSY among them, returns
the word the map gives (`registerWords`), and nothing else changes. -/
def Obligations.RegisterReads : Prop :=
  ∀ (s : State) (a : Word) (off : Nat) (w : Word), a.toNat % 4 = 0 → a.toNat = s.cfg.base + off →
    (off, w) ∈ registerWords s → hostRead s a .b4 = { s with rdata := w }

/-- R22: while BUSY a write to an operand register is ignored and sets `HOSTERR`; otherwise it replaces all 32 bits. -/
def Obligations.OperandRegistersLocked : Prop :=
  ∀ (s : State) (a v : Word) (rest : List HostEvent), s.bits.running = false → a.toNat % 4 = 0 →
    s.host = .write a .b4 v :: rest →
    (s.st = .busy → ∀ off ∈ [0x10, 0x14, 0x18, 0x24, 0x28], a.toNat = s.cfg.base + off →
      step s = .next { s with host := rest, hosterr := true }) ∧
    (s.st ≠ .busy →
      (a.toNat = s.cfg.base + 0x10 → step s = .next { s with host := rest, imgWidth := v }) ∧
      (a.toNat = s.cfg.base + 0x14 → step s = .next { s with host := rest, imgHeight := v }) ∧
      (a.toNat = s.cfg.base + 0x18 → step s = .next { s with host := rest, hints := v }) ∧
      (a.toNat = s.cfg.base + 0x24 → step s = .next { s with host := rest, arg0 := v }) ∧
      (a.toNat = s.cfg.base + 0x28 → step s = .next { s with host := rest, arg1 := v }))

/-- R22, R29, R520: in every state, BUSY among them, a write to `IRQ_EN` takes effect and a write to `IRQ_PEND` clears
exactly the bits written 1; `irq` is the three low bits of both, and-ed. -/
def Obligations.InterruptRegisters : Prop :=
  ∀ (s : State) (a v : Word) (rest : List HostEvent), s.bits.running = false → a.toNat % 4 = 0 →
    s.host = .write a .b4 v :: rest →
    (a.toNat = s.cfg.base + 0x1C → step s = .next { s with host := rest, irqEn := v }) ∧
    (a.toNat = s.cfg.base + 0x20 →
      ∃ t, step s = .next t ∧ t = { s with host := rest, irqPend := t.irqPend } ∧
        ∀ k, k < 3 → t.irqPend.getLsbD k = (s.irqPend.getLsbD k && !v.getLsbD k)) ∧
    (irqLine s = true ↔ ∃ k, k < 3 ∧ s.irqEn.getLsbD k = true ∧ s.irqPend.getLsbD k = true)

/-- R21, R39, R45, R46, R82, R84, R85, R93, R506: a misaligned or unmapped access, a register access that is not 32 bits
wide or at an offset with no register, and, while BUSY, any access to the seven memories do nothing but set `HOSTERR`, a
read returning 0; so does at any time a write to a read-only register, to `TEXT` or to `SEG`. -/
def Obligations.IllegalAccessesIgnored : Prop :=
  ∀ (s : State) (a : Word) (n : Width) (v : Word),
    ((a.toNat % widthBytes n ≠ 0 ∨ regionOf s.cfg a.toNat = none ∨
        (regionOf s.cfg a.toNat = some .regs ∧ n ≠ .b4) ∨
        (s.st = .busy ∧ regionOf s.cfg a.toNat ≠ some .regs) ∨
        (∃ off ∈ [0x2C, 0x6C, 0x70, 0x74, 0x78, 0x7C, 0xC8, 0xCC, 0xD0, 0xD4, 0xD8, 0xDC, 0xE0, 0xE4, 0xE8, 0xEC, 0xF0,
          0xF4, 0xF8, 0xFC], a.toNat = s.cfg.base + off)) →
      hostRead s a n = { s with hosterr := true, rdata := 0 } ∧ hostWrite s a n v = { s with hosterr := true }) ∧
    (regionOf s.cfg a.toNat = some .text ∨ regionOf s.cfg a.toNat = some .seg ∨
        (∃ off ∈ [0x00, 0x08, 0x0C, 0x30, 0x34, 0x38, 0x3C, 0x40, 0x44, 0x48, 0x4C, 0x50, 0x54, 0x58, 0x5C,
          0x60, 0x64, 0x68, 0x80, 0x84, 0x88, 0x8C, 0x90, 0x94, 0x98, 0x9C, 0xA0, 0xA4, 0xA8, 0xAC, 0xB0, 0xB4, 0xB8, 0xBC, 0xC0, 0xC4],
          a.toNat = s.cfg.base + off) →
      hostWrite s a n v = { s with hosterr := true })

/-- R80, R82, R84 to R86: outside BUSY an aligned access of 1, 2 or 4 bytes to a memory is legal. A read returns the bytes,
lowest address lowest, and changes nothing else; a write to one of the five writable memories stores the bytes of the
value in that order where there is storage, and changes no other byte and no register; a byte of a window beyond the
capacity reads 0. -/
def Obligations.HostMemoryAccesses : Prop :=
  ∀ (s : State) (r : Region) (a v : Word) (n : Width), s.st ≠ .busy → a.toNat % widthBytes n = 0 → r ≠ .regs →
    inWindow s.cfg r a.toNat = true →
    (∃ w, hostRead s a n = { s with rdata := w } ∧ w.toNat < 256 ^ widthBytes n ∧
      ∀ k, k < widthBytes n → w.extractLsb' (8 * k) 8 = memRead s.mem (a.toNat + k)) ∧
    (r ∈ [Region.luma, .imgbits, .symbits, .cw, .data] → memWf s.mem = true →
      ∃ t, hostWrite s a n v = t ∧ t = { s with mem := t.mem } ∧
        (∀ k, k < widthBytes n → memRead t.mem (a.toNat + k) =
          if inCapacity s.cfg r (a.toNat + k) then v.extractLsb' (8 * k) 8 else memRead s.mem (a.toNat + k)) ∧
        memSameBut s t (fun x => a.toNat ≤ x && x < a.toNat + widthBytes n)) ∧
    (s.cfg.legal = true → memoryOk s = true → inCapacity s.cfg r a.toNat = false → memRead s.mem a.toNat = 0)

/-- R62, R550, R551: a reset, from any state and with any memory contents, leaves `ID` as it is, every other register 0,
`irq` low, the engine IDLE. -/
def Obligations.ResetValues : Prop :=
  ∀ (s : State) (m : List Host.Cell) (rest : List HostEvent), s.bits.running = false → s.host = .rst m :: rest →
    ∃ t, step s = .next t ∧ t = { State.reset with cfg := s.cfg, mem := t.mem, host := rest } ∧
      t.st = .idle ∧ irqLine t = false ∧
      readReg t .id = 0x51524431 ∧ ∀ r, r ≠ .id → readReg t r = 0

/-! ## Whole-machine rules -/

/-- R551: the invariant holds after power-up of every legal build, whatever its `INIT_MEM`; `State.reset` is that of the
default build (logs 3, 5). -/
def Obligations.ResetMeetsInvariant : Prop :=
  (∀ cfg : Config, cfg.legal = true → MachineInv (powerUp cfg)) ∧ powerUp Config.hw = State.reset ∧
    MachineInv State.reset

/-- R20, R26, R27, R58, R86, R421, R423, R476, R510: every step keeps the invariant. -/
def Obligations.StepKeepsInvariant : Prop := ∀ s t : State, MachineInv s → step s = .next t → MachineInv t

/-- R560: with the invariant, no step stops. -/
def Obligations.StepNeverStops : Prop := ∀ s : State, MachineInv s → ∃ t, step s = .next t

/-- R423, R472, R476, R490: every command ends. With no host access pending, at most 12000 steps lead out of BUSY: stage
steps and segment instructions, one each, which is the model's own count (log 1). -/
def Obligations.EveryCommandEnds : Prop :=
  ∀ s : State, MachineInv s → s.host = [] → ∃ k t, k ≤ 12000 ∧ Sys2Proof.core.run k s = .next t ∧ t.st ≠ .busy

/-- R25, R27, R472, R476, R489: between two BUSY states of a command. Either the stage stays, because the instruction loop
of BITS is under way or the step served the host; or it advances as the sequence of the command says; or DECODE or
DECODESYM, in pass 0 and at PARSE, READCW, EC or BITS, takes the mirror edge to PARSE of pass 1. `PASS` changes only
there. That the end step is a stage of its own is log 22. -/
def Obligations.StageOrder : Prop :=
  ∀ s t : State, MachineInv s → s.st = .busy → step s = .next t → t.st = .busy →
    t.cmd = s.cmd ∧
    (t.pass = s.pass ∧ t.stage = s.stage ∧
        (t.bits.running = true ∨ ∃ e rest, s.host = e :: rest ∧ e ≠ HostEvent.engine) ∨
      t.pass = s.pass ∧ (s.cmd, s.stage, t.stage) ∈
        [(Command.decode, Stage.bin, Stage.det), (.decode, .det, .parse), (.decode, .parse, .readcw),
          (.decode, .readcw, .ec), (.decode, .ec, .bits), (.decode, .bits, .fin),
          (.decodesym, .parse, .readcw), (.decodesym, .readcw, .ec), (.decodesym, .ec, .bits), (.decodesym, .bits, .fin),
          (.binarize, .bin, .fin), (.detect, .det, .fin), (.rsdecode, .ec, .fin), (.parsebits, .bits, .fin)] ∨
      (s.cmd = .decode ∨ s.cmd = .decodesym) ∧ s.stage ∈ [Stage.parse, .readcw, .ec, .bits] ∧ s.pass = false ∧
        t.pass = true ∧ t.stage = .parse)

/-- R23, R89, R520: the engine writes no operand register, not `IRQ_EN`, not `HOSTERR`, and never `LUMA`. -/
def Obligations.EngineLeavesInputsAlone : Prop :=
  ∀ s t : State, engineStep s = .next t →
    t.cfg = s.cfg ∧ t.imgWidth = s.imgWidth ∧ t.imgHeight = s.imgHeight ∧ t.hints = s.hints ∧ t.arg0 = s.arg0 ∧
    t.arg1 = s.arg1 ∧ t.irqEn = s.irqEn ∧ t.hosterr = s.hosterr ∧ t.host = s.host ∧ t.rdata = s.rdata ∧
    ∀ a, inWindow s.cfg .luma a = true → memRead t.mem a = memRead s.mem a

/-- R89, R96: no segment instruction writes `DATA`, its own instruction memory, nor any input of the command: as long as
the loop goes on, every byte outside `TEXT` and `SEG` is as it was. -/
def Obligations.SegmentsWriteOnlyTextAndSeg : Prop :=
  ∀ s t : State, s.bits.running = true → step s = .next t → t.bits.running = true →
    ∀ a, inWindows s.cfg [.text, .seg] a = false → memRead t.mem a = memRead s.mem a

/-! ## Stages -/

/-- R202: stage BIN rejects a frame whose samples are all equal with `NF_BIN_DEGENERATE`, and no other frame with it. -/
def Obligations.UniformFrameRejected : Prop :=
  ∀ (cfg : Config) (lum : Nat → Nat → Nat) (w h : Nat), 1 ≤ w → 1 ≤ h →
    (binarize cfg lum w h = .error .nfBinDegenerate ↔ ∀ x y, x < w → y < h → lum x y = lum 0 0)

/-- R201, R206, R207: a frame of at least `MIN_DIM` (40) by `MIN_DIM` that is not uniform is always binarized, on the local
path, and a pixel is black exactly when some block that contains it has a threshold at or above its sample. R206 is
written for `BLOCK` = 8; blocks of another size are the model's reading (log 5). -/
def Obligations.LocalPathClassifies : Prop :=
  ∀ (cfg : Config) (lum : Nat → Nat → Nat) (w h : Nat), cfg.minDim ≤ w → cfg.minDim ≤ h →
    (∃ x y, x < w ∧ y < h ∧ lum x y ≠ lum 0 0) →
    ∃ r, binarize cfg lum w h = .ok r ∧ r.path = false ∧ r.rows.length = h ∧
      ∀ x y, x < w → y < h →
        ((r.rows.getD y []).getD x false = true ↔
          ∃ bx by_, bx < subBlocks cfg w ∧ by_ < subBlocks cfg h ∧
            blockOrigin cfg bx w ≤ x ∧ x < blockOrigin cfg bx w + cfg.block ∧
            blockOrigin cfg by_ h ≤ y ∧ y < blockOrigin cfg by_ h + cfg.block ∧
            lum x y ≤ gridAt (thresholds (blackPoints cfg lum w h) (subBlocks cfg w) (subBlocks cfg h)) by_ bx)

/-- R47: a bit matrix stored packed reads back pixel by pixel, and the bits beyond its width read 0. -/
def Obligations.PackedMatrixReadsBack : Prop :=
  ∀ (cfg : Config) (m : List Host.Cell) (r : Region) (rows : List (List Bool)) (w x y : Nat), memWf m = true →
    (∀ row ∈ rows, row.length = w) → 4 * (rowWords w * rows.length) ≤ regionCapacity cfg r →
    y < rows.length → x < 32 * rowWords w →
    matrixBit cfg (storeBytes cfg m r 0 (packMatrix rows w)) r w x y = (rows.getD y []).getD x false

/-- R41, R42, R47, R87, R89, R200, R230, R472: the stage steps BIN and DET. Where the stage's function succeeds on what
the memories hold, the step stores its matrix, keeps its pending values and goes on to the next stage of the command;
where it does not, the step raises its exception. DET sets `CAND_OVF` in either case (R246, R293). -/
def Obligations.ImageStagesStore : Prop :=
  ∀ s u : State, EngineTurn s u → u.st = .busy → u.cfg.legal = true → FrameLegal u → memWf u.mem = true →
    (u.stage = .bin → u.cmd = .decode ∨ u.cmd = .binarize →
      ∀ b, b = binarize u.cfg
          (fun x y => (memRead u.mem (u.cfg.base + 0x01000000 + y * u.imgWidth.toNat + x)).toNat)
          u.imgWidth.toNat u.imgHeight.toNat →
        (∀ r, b = .ok r → ∃ t, step s = .next t ∧
          t = { u with stage := if u.cmd = .decode then .det else .fin, binPath := r.path, mem := t.mem } ∧
          (∀ x y, x < u.imgWidth.toNat → y < u.imgHeight.toNat →
            imageSeen t x y = (r.rows.getD y []).getD x false) ∧
          memSameBut u t (inWindow u.cfg .imgbits)) ∧
        (∀ e, b = .error e → ∃ t, step s = .next t ∧ RaisesExc u t e)) ∧
    (u.stage = .det → u.cmd = .decode ∨ u.cmd = .detect →
      ∀ d, d = detect u.cfg (imageSeen u) u.imgWidth.toNat u.imgHeight.toNat (u.hints.getLsbD 0) →
        (∀ r, d.result = .ok r → ∃ t, step s = .next t ∧
          t = { u with
                stage := if u.cmd = .decode then .parse else .fin, candOvf := u.candOvf || d.ovf, det := r.det
                mem := t.mem } ∧
          (∀ x y, x < r.det.dim → y < r.det.dim →
            symbolSeen { t with pass := false } x y = (r.rows.getD y []).getD x false) ∧
          memSameBut u t (inWindow u.cfg .symbits)) ∧
        (∀ e, d.result = .error e →
          ∃ t, step s = .next t ∧ RaisesExc { u with candOvf := u.candOvf || d.ovf } t e))

/-- R246, R285, R286, R310, R311: the parts of what stage DET reports are legal: never more than `MAX_CAND` (64) candidates; a
dimension that is accepted is from 21 to 177, 1 mod 4, and goes with a provisional version from 1 to 40; a sampled matrix
has as many rows and columns as the dimension. -/
def Obligations.DetectionIsLegal : Prop :=
  (∀ (cfg : Config) (blk : Nat → Nat → Bool) (w h : Nat) (th : Bool),
    (findCandidates cfg blk w h th).cand.length ≤ cfg.maxCand) ∧
  (∀ (nf : NumFmt) (o : Ordered) (ms : F64) (dim : Nat), dimension nf o ms = .ok dim →
    21 ≤ dim ∧ dim ≤ 177 ∧ dim % 4 = 1 ∧ 1 ≤ provisionalVersion dim ∧ provisionalVersion dim ≤ 40 ∧
      dim = 17 + 4 * provisionalVersion dim) ∧
  (∀ (nf : NumFmt) (blk : Nat → Nat → Bool) (xf : Transform) (w h dim : Nat) (rows : List (List Bool)),
    sampleGrid nf blk xf w h dim = some rows → rows.length = dim ∧ ∀ row ∈ rows, row.length = dim)

/-- R335, R340: two format readings both within 3 bits of the stored form of a code give that code; a version reading
within `VERSION_MAX_DIFF` bits, at most 3, of the code word of a version gives that version. -/
def Obligations.CodesCorrectThreeBits : Prop :=
  (∀ k f1 f2 : Nat, k < 32 → f1 < 2 ^ 15 → f2 < 2 ^ 15 →
    popcount18 (f1 ^^^ (formatWords.getD k 0 ^^^ 0x5412)) ≤ 3 →
    popcount18 (f2 ^^^ (formatWords.getD k 0 ^^^ 0x5412)) ≤ 3 → matchFormat f1 f2 = some k) ∧
  (∀ (cfg : Config) (v r : Nat), cfg.versionMaxDiff ≤ 3 → 7 ≤ v → v ≤ 40 → r < 2 ^ 18 →
    popcount18 (r ^^^ versionWords.getD (v - 7) 0) ≤ cfg.versionMaxDiff → matchVersion cfg r = some v)

/-- R341, R342: a version read from a symbol is always the one of its dimension. -/
def Obligations.ParsedVersionFitsDimension : Prop :=
  ∀ (cfg : Config) (mod : Nat → Nat → Bool) (dim : Nat) (p : ParseOut), 21 ≤ dim → dim ≤ 177 → dim % 4 = 1 →
    parseSymbol cfg mod dim = .ok p → 17 + 4 * p.ver = dim

/-- R343, R344: the version table is consistent: for every version and level the blocks hold the version's codewords,
the data part at most 2956 bytes, in one or two groups, the second one codeword longer; the last centre is `DIM - 7`. -/
def Obligations.VersionTableConsistent : Prop :=
  ∀ (v : Nat) (e : BitVec 2), 1 ≤ v → v ≤ 40 →
    (blockLengths (ecLayout v e)).sum + (blockLengths (ecLayout v e)).length * (ecLayout v e).ec =
        (versionInfo v).total ∧
      (blockLengths (ecLayout v e)).sum ≤ 2956 ∧
      (∀ n ∈ blockLengths (ecLayout v e),
        n = (blockLengths (ecLayout v e)).headD 0 ∨ n = (blockLengths (ecLayout v e)).headD 0 + 1) ∧
      (2 ≤ v → (versionInfo v).align.getLastD 0 = 17 + 4 * v - 7)

/-- R346, R347: the modules that are no data modules are those of the finder corners with separators and format
information, of the alignment patterns at all pairs of centres but the three that overlap a finder, of the two timing
patterns and, from version 7, of the version information; and the eight mask conditions. -/
def Obligations.FunctionModulesAndMasks : Prop :=
  (∀ ver x y : Nat, 1 ≤ ver → ver ≤ 40 → x < 17 + 4 * ver → y < 17 + 4 * ver →
    (isFunction ver x y = true ↔
      x < 9 ∧ y < 9 ∨ 9 + 4 * ver ≤ x ∧ y < 9 ∨ x < 9 ∧ 9 + 4 * ver ≤ y ∨
      (∃ a b, a < (versionInfo ver).align.length ∧ b < (versionInfo ver).align.length ∧ ¬ (a = 0 ∧ b = 0) ∧
        ¬ (a = 0 ∧ b = (versionInfo ver).align.length - 1) ∧ ¬ (a = (versionInfo ver).align.length - 1 ∧ b = 0) ∧
        (versionInfo ver).align.getD b 0 - 2 ≤ x ∧ x ≤ (versionInfo ver).align.getD b 0 + 2 ∧
        (versionInfo ver).align.getD a 0 - 2 ≤ y ∧ y ≤ (versionInfo ver).align.getD a 0 + 2) ∨
      x = 6 ∧ 9 ≤ y ∧ y < 9 + 4 * ver ∨ y = 6 ∧ 9 ≤ x ∧ x < 9 + 4 * ver ∨
      7 ≤ ver ∧ (6 + 4 * ver ≤ x ∧ x < 9 + 4 * ver ∧ y < 6 ∨ x < 6 ∧ 6 + 4 * ver ≤ y ∧ y < 9 + 4 * ver))) ∧
  (∀ i j : Nat,
    (maskBit 0 i j = true ↔ (i + j) % 2 = 0) ∧ (maskBit 1 i j = true ↔ i % 2 = 0) ∧
    (maskBit 2 i j = true ↔ j % 3 = 0) ∧ (maskBit 3 i j = true ↔ (i + j) % 3 = 0) ∧
    (maskBit 4 i j = true ↔ (i / 2 + j / 3) % 2 = 0) ∧ (maskBit 5 i j = true ↔ i * j % 2 + i * j % 3 = 0) ∧
    (maskBit 6 i j = true ↔ (i * j % 2 + i * j % 3) % 2 = 0) ∧
    (maskBit 7 i j = true ↔ ((i + j) % 2 + i * j % 3) % 2 = 0))

/-- R352, R353: what READCW reads. The data modules in walk order (`walkKey`, the list fixed by its order and its
members) give their bits, the mask removed, eight to a codeword, the first the most significant; the codewords are as
many as the version's total, the bits left over are dropped. -/
def Obligations.CodewordWalk : Prop :=
  ∀ (mod : Nat → Nat → Bool) (dim ver mask : Nat) (cw : List Byte), 21 ≤ dim → dim ≤ 177 → dim % 4 = 1 →
    readCodewords mod dim ver mask = .ok cw →
    cw.length = (versionInfo ver).total ∧
    ∃ walk : List (Nat × Nat), walk.Pairwise (fun p q => walkKey dim p < walkKey dim q) ∧
      (∀ p : Nat × Nat, p ∈ walk ↔ p.1 < dim ∧ p.2 < dim ∧ p.1 ≠ 6 ∧ isFunction ver p.1 p.2 = false) ∧
      cw.length = walk.length / 8 ∧
      ∀ n k, n < cw.length → k < 8 →
        (cw.getD n 0).getLsbD (7 - k) =
          xor (mod (walk.getD (8 * n + k) (0, 0)).1 (walk.getD (8 * n + k) (0, 0)).2)
            (maskBit mask (walk.getD (8 * n + k) (0, 0)).2 (walk.getD (8 * n + k) (0, 0)).1)

/-- R356: the codewords are dealt in the order of the rule: round-robin to the blocks up to the shorter length, then the
extra data codeword of each longer block, then the EC codewords round-robin; the places counted in that order are 0, 1, 2
and so on to the last. -/
def Obligations.CodewordsDealt : Prop :=
  ∀ (nds : List Nat) (ec : Nat), (∀ n ∈ nds, n = nds.headD 0 ∨ n = nds.headD 0 + 1) →
    ((List.range (nds.headD 0)).flatMap fun k => (List.range nds.length).map fun b => codewordPlace nds b k) ++
      (((List.range nds.length).filter fun b => nds.headD 0 < nds.getD b 0).map fun b =>
        codewordPlace nds b (nds.headD 0)) ++
      ((List.range ec).flatMap fun k => (List.range nds.length).map fun b => codewordPlace nds b (nds.getD b 0 + k)) =
    List.range (nds.sum + ec * nds.length)

/-- R87, R330, R358, R359, R420, R472, R486: the stage steps PARSE and READCW and the entry of BITS. PARSE and READCW work on
the symbol as the pass sees it, in pass 1 the transpose; where the stage's function succeeds the step keeps its values,
stores the codewords in `CW` and goes on, else it raises. BITS begins with the cursor at 0 and nothing emitted, over
`ARG0` bytes of version `ARG1[7:0]` for PARSEBITS, else over what EC and PARSE handed on. -/
def Obligations.SymbolStagesStore : Prop :=
  ∀ s u : State, EngineTurn s u → u.st = .busy →
    (u.stage = .parse → u.cmd = .decode ∨ u.cmd = .decodesym →
      (∀ p, parseSymbol u.cfg (symbolSeen u) (dimInHand u) = .ok p →
        step s = .next
          { u with stage := .readcw, sym := { u.sym with ecbits := p.ecbits, mask := p.mask, ver := p.ver } }) ∧
      (∀ e, parseSymbol u.cfg (symbolSeen u) (dimInHand u) = .error e →
        ∃ t, step s = .next t ∧ RaisesExc u t e)) ∧
    (u.stage = .readcw → u.cmd = .decode ∨ u.cmd = .decodesym → memWf u.mem = true →
      (∀ cw, readCodewords (symbolSeen u) (dimInHand u) u.sym.ver u.sym.mask.toNat = .ok cw →
        ∃ t, step s = .next t ∧
          t = { u with stage := .ec, sym := { u.sym with ncw := cw.length }, mem := t.mem } ∧
          bytesAt t (u.cfg.base + 0x03002000) cw ∧
          memSameBut u t (fun a => u.cfg.base + 0x03002000 ≤ a && a < u.cfg.base + 0x03002000 + cw.length)) ∧
      (∀ e, readCodewords (symbolSeen u) (dimInHand u) u.sym.ver u.sym.mask.toNat = .error e →
        ∃ t, step s = .next t ∧ RaisesExc u t e)) ∧
    (u.stage = .bits →
      (u.cmd = .parsebits → step s = .next
        { u with bits := { running := true, ver := u.arg1.toNat % 256, ndata := BitVec.ofNat 12 u.arg0.toNat } }) ∧
      (u.cmd = .decode ∨ u.cmd = .decodesym → step s = .next
        { u with bits := { running := true, ver := u.sym.ver, ndata := u.ec.ndata } }))

/-- R380, R381: the tables of the field: `EXP` doubles modulo 0x11D from 1, and `LOG` is its inverse. -/
def Obligations.FieldTables : Prop :=
  expTable.length = 256 ∧ logTable.length = 256 ∧ expAt 0 = 1 ∧
  (∀ i, i < 255 → expAt (i + 1) = if (expAt i).msb then (expAt i <<< 1) ^^^ 0x1D#8 else expAt i <<< 1) ∧
  (∀ i, i < 255 → logAt (expAt i) = i) ∧ (∀ a : Byte, a ≠ 0 → expAt (logAt a) = a)

/-- R390, R396: what the block decoder returns is a code vector as long as the block, at most `ec div 2` bytes from it,
and the count is the number of bytes changed; a block already in the code is returned as it is. -/
def Obligations.BlockDecoderSound : Prop :=
  ∀ (rec out : List Byte) (ec n : Nat),
    (rsDecode rec ec = some (out, n) →
      out.length = rec.length ∧ (∀ i, i < ec → peval out (gfpow i) = 0) ∧ n = byteDist out rec ∧ n ≤ ec / 2) ∧
    ((∀ i, i < ec → peval rec (gfpow i) = 0) → rsDecode rec ec = some (rec, 0))

/-- R390, R397 for one changed byte (log 17): a code vector of at most 255 bytes, at least 2 of them EC codewords, with one
byte changed to any other value decodes to that code vector with the count 1. -/
def Obligations.SingleByteCorrected : Prop :=
  ∀ (c : List Byte) (ec i : Nat) (v : Byte), 2 ≤ ec → ec ≤ c.length → c.length ≤ 255 →
    (∀ j, j < ec → peval c (gfpow j) = 0) → i < c.length → v ≠ 0 →
    rsDecode (c.set i (c.getD i 0 ^^^ v)) ec = some (c, 1)

/-- R355 to R357, R400: the stage step EC of a symbol. Each block is dealt its codewords from `CW` (CodewordsDealt) and
decoded; if all decode, `DATA` is their data parts in block order, `NERR` the sum of their counts, `CW` and every other
byte unchanged; if one does not, the step raises `CE_UNCORRECTABLE`. -/
def Obligations.SymbolBlocksCorrected : Prop :=
  ∀ s u : State, EngineTurn s u → u.st = .busy → u.stage = .ec → u.cmd = .decode ∨ u.cmd = .decodesym →
    memWf u.mem = true → 1 ≤ u.sym.ver → u.sym.ver ≤ 40 →
    ∀ (nds : List Nat) (ec : Nat) (received : Nat → List Byte),
      nds = blockLengths (ecLayout u.sym.ver u.sym.ecbits) → ec = (ecLayout u.sym.ver u.sym.ecbits).ec →
      (∀ b, received b = (List.range (nds.getD b 0 + ec)).map fun k =>
        memRead u.mem (u.cfg.base + 0x03002000 + codewordPlace nds b k)) →
      (∀ (out : Nat → List Byte) (err : Nat → Nat),
        (∀ b, b < nds.length → rsDecode (received b) ec = some (out b, err b)) →
        ∃ t, step s = .next t ∧
          t = { u with
                stage := .bits, mem := t.mem
                ec := { nerr := ((List.range nds.length).map err).sum, ndata := BitVec.ofNat 12 nds.sum } } ∧
          bytesAt t (u.cfg.base + 0x03004000) ((List.range nds.length).flatMap fun b => (out b).take (nds.getD b 0)) ∧
          memSameBut u t (fun a => u.cfg.base + 0x03004000 ≤ a && a < u.cfg.base + 0x03004000 + nds.sum)) ∧
      ((∃ b, b < nds.length ∧ rsDecode (received b) ec = none) →
        ∃ t, step s = .next t ∧ RaisesExc u t .ceUncorrectable)

/-- R401, R485: the stage step of RSDECODE: the block corrected in place and nothing else written, or FAIL with
`CE_UNCORRECTABLE` and `CW` as it was. -/
def Obligations.RsdecodeCorrectsInPlace : Prop :=
  ∀ s u : State, EngineTurn s u → u.st = .busy → u.stage = .ec → u.cmd = .rsdecode → memWf u.mem = true →
    u.pass = false → u.arg0.toNat ≤ 255 →
    (∀ out n, rsDecode (memLoad u.mem (u.cfg.base + 0x03002000) u.arg0.toNat) u.arg1.toNat = some (out, n) →
      ∃ t, step s = .next t ∧ t = { u with stage := .fin, ec := { u.ec with nerr := n }, mem := t.mem } ∧
        bytesAt t (u.cfg.base + 0x03002000) out ∧
        memSameBut u t (fun a => u.cfg.base + 0x03002000 ≤ a && a < u.cfg.base + 0x03002000 + u.arg0.toNat)) ∧
    (rsDecode (memLoad u.mem (u.cfg.base + 0x03002000) u.arg0.toNat) u.arg1.toNat = none →
      ∃ t, step s = .next t ∧ EndsWith u t .ceUncorrectable false u.candOvf [] ∧ t.mem = u.mem)
end

