-- ==== Sys2Proof/Laws/Memory.lean ====
section
/-!
SUPPORT. The laws of the memory operations: what a byte reads as after each of them, that each keeps the canonical form
and lists only addresses with storage, and that memories with equal reads are equal data.
-/

namespace Sys2Proof.Laws

open Sys2Proof Sys2Proof.Machine

/-! ## The canonical form -/

theorem memWfFrom_none (m : List Host.Cell) (l : Nat) (h : memWfFrom (some l) m = true) : memWfFrom none m = true := by
  cases m with
  | nil => rfl
  | cons c t => obtain ⟨b, v⟩ := c; simp [memWfFrom] at *; exact ⟨h.1.2, h.2⟩

theorem memWfFrom_mono (m : List Host.Cell) (l l' : Nat) (hl : l' ≤ l) (h : memWfFrom (some l) m = true) :
    memWfFrom (some l') m = true := by
  cases m with
  | nil => rfl
  | cons c t => obtain ⟨b, v⟩ := c; simp [memWfFrom] at *; exact ⟨⟨by omega, h.1.2⟩, h.2⟩

/-- An address at or below a lower bound of the list is not listed. -/
theorem memRead_below (m : List Host.Cell) (l a : Nat) (h : memWfFrom (some l) m = true) (ha : a ≤ l) :
    memRead m a = 0#8 := by
  induction m generalizing l with
  | nil => rfl
  | cons c t ih =>
    obtain ⟨b, v⟩ := c
    simp [memWfFrom] at h
    have : b ≠ a := by omega
    simp [memRead, this]
    exact ih b h.2 (by omega)

theorem memWfFrom_memWrite (m : List Host.Cell) (lo : Option Nat) (a : Nat) (v : Byte)
    (hlo : ∀ l, lo = some l → l < a) (h : memWfFrom lo m = true) : memWfFrom lo (memWrite m a v) = true := by
  induction m generalizing lo with
  | nil =>
    by_cases hv : v = 0#8
    · simp [memWrite, hv, memWfFrom]
    · cases lo with
      | none => simp [memWrite, hv, memWfFrom]
      | some l => simp [memWrite, hv, memWfFrom, hlo l rfl]
  | cons c t ih =>
    obtain ⟨b, w⟩ := c
    have hb : memWfFrom (some b) t = true := by simp [memWfFrom] at h; exact h.2
    have hw : w ≠ 0#8 := by simp [memWfFrom] at h; exact h.1.2
    have hlb : ∀ l, lo = some l → l < b := by
      intro l hl; subst hl; simp [memWfFrom] at h; exact h.1.1
    unfold memWrite
    by_cases hab : a < b
    · simp only [hab, if_true]
      by_cases hv : v = 0#8
      · simp only [hv, if_true]; exact h
      · simp only [hv, if_false]
        cases lo with
        | none => simp [memWfFrom, hv, hab, hw, hb]
        | some l => simp [memWfFrom, hv, hab, hw, hb, hlo l rfl]
    · simp only [hab, if_false]
      by_cases hab' : a = b
      · subst hab'
        simp only [if_true]
        by_cases hv : v = 0#8
        · simp only [hv, if_true]
          cases lo with
          | none => exact memWfFrom_none t a hb
          | some l => exact memWfFrom_mono t a l (by have := hlb l rfl; omega) hb
        · simp only [hv, if_false]
          cases lo with
          | none => simp [memWfFrom, hv, hb]
          | some l => simp [memWfFrom, hv, hb, hlb l rfl]
      · simp only [hab', if_false]
        have hrec := ih (some b) (by intro l hl; cases hl; omega) hb
        cases lo with
        | none => simp [memWfFrom, hw, hrec]
        | some l => simp [memWfFrom, hw, hrec, hlb l rfl]

/-- A write keeps the canonical form. -/
theorem memWf_memWrite (m : List Host.Cell) (a : Nat) (v : Byte) (h : memWf m = true) :
    memWf (memWrite m a v) = true :=
  memWfFrom_memWrite m none a v (by intro l hl; cases hl) h

theorem memWfFrom_filter (p : Host.Cell → Bool) (m : List Host.Cell) (lo : Option Nat) (h : memWfFrom lo m = true) :
    memWfFrom lo (m.filter p) = true := by
  induction m generalizing lo with
  | nil => rfl
  | cons c t ih =>
    obtain ⟨b, v⟩ := c
    have hb : memWfFrom (some b) t = true := by simp [memWfFrom] at h; exact h.2
    rw [List.filter_cons]
    by_cases hp : p (b, v) = true
    · simp only [hp, if_true]
      simp [memWfFrom] at h ⊢
      exact ⟨h.1, ih (some b) hb⟩
    · simp only [hp]
      have h' := ih (some b) hb
      cases lo with
      | none => exact memWfFrom_none _ b h'
      | some l => exact memWfFrom_mono _ b l (by simp [memWfFrom] at h; omega) h'

theorem memWf_memClear (m : List Host.Cell) (a len : Nat) (h : memWf m = true) : memWf (memClear m a len) = true :=
  memWfFrom_filter _ m none h

/-! ## Reads -/

/-- What a byte reads as after a write. -/
theorem memRead_memWrite_ne (m : List Host.Cell) (a b : Nat) (v : Byte) (hne : b ≠ a) :
    memRead (memWrite m a v) b = memRead m b := by
  induction m with
  | nil => by_cases hv : v = 0#8 <;> simp [memWrite, memRead, hv, Ne.symm hne]
  | cons c t ih =>
    obtain ⟨d, w⟩ := c
    unfold memWrite
    by_cases h1 : a < d
    · by_cases hv : v = 0#8 <;> simp [h1, hv, memRead, Ne.symm hne]
    · by_cases h2 : a = d
      · subst h2; by_cases hv : v = 0#8 <;> simp [hv, memRead, Ne.symm hne]
      · simp only [h1, h2, if_false, memRead, ih]

theorem memRead_memWrite_self_from (m : List Host.Cell) (lo : Option Nat) (a : Nat) (v : Byte)
    (h : memWfFrom lo m = true) : memRead (memWrite m a v) a = v := by
  induction m generalizing lo with
  | nil => by_cases hv : v = 0#8 <;> simp [memWrite, memRead, hv]
  | cons c t ih =>
    obtain ⟨d, w⟩ := c
    have hd : memWfFrom (some d) t = true := by simp [memWfFrom] at h; exact h.2
    unfold memWrite
    by_cases h1 : a < d
    · by_cases hv : v = 0#8
      · have : d ≠ a := by omega
        simp [h1, hv, memRead, this, memRead_below t d a hd (by omega)]
      · simp [h1, hv, memRead]
    · by_cases h2 : a = d
      · subst h2
        by_cases hv : v = 0#8
        · simp [hv, memRead_below t a a hd (Nat.le_refl a)]
        · simp [hv, memRead]
      · have : d ≠ a := fun e => h2 e.symm
        simp [h1, h2, memRead, this, ih (some d) hd]

theorem memRead_memWrite_self (m : List Host.Cell) (a : Nat) (v : Byte) (h : memWf m = true) :
    memRead (memWrite m a v) a = v :=
  memRead_memWrite_self_from m none a v h

/-- A read after a write. -/
theorem memRead_memWrite (m : List Host.Cell) (a b : Nat) (v : Byte) (h : memWf m = true) :
    memRead (memWrite m a v) b = if b = a then v else memRead m b := by
  by_cases hb : b = a
  · subst hb; simp [memRead_memWrite_self m b v h]
  · simp [hb, memRead_memWrite_ne m a b v hb]

theorem memRead_filter (p : Nat → Bool) (m : List Host.Cell) (b : Nat) :
    memRead (m.filter fun c => p c.1) b = if p b then memRead m b else 0#8 := by
  induction m with
  | nil => simp [memRead]
  | cons c t ih =>
    obtain ⟨d, w⟩ := c
    rw [List.filter_cons]
    by_cases hp : p d = true
    · by_cases hd : d = b
      · subst hd; simp [hp, memRead]
      · simp [hp, memRead, hd, ih]
    · by_cases hd : d = b
      · subst hd; simp [hp, ih]
      · simp [hp, ih, memRead, hd]

theorem memRead_memClear (m : List Host.Cell) (a len b : Nat) :
    memRead (memClear m a len) b = if b < a ∨ a + len ≤ b then memRead m b else 0#8 := by
  have := memRead_filter (fun x => x < a || a + len ≤ x) m b
  simp only [Bool.or_eq_true, decide_eq_true_eq] at this
  exact this

/-- Memories of canonical form that read alike are equal. -/
theorem mem_ext_from (m n : List Host.Cell) (lo lo' : Option Nat) (hm : memWfFrom lo m = true)
    (hn : memWfFrom lo' n = true) (h : ∀ a, memRead m a = memRead n a) : m = n := by
  induction m generalizing n lo lo' with
  | nil =>
    cases n with
    | nil => rfl
    | cons c t =>
      obtain ⟨b, v⟩ := c
      have := h b
      simp [memRead] at this
      simp [memWfFrom] at hn
      exact absurd this.symm hn.1.2
  | cons c t ih =>
    obtain ⟨b, v⟩ := c
    have hb : memWfFrom (some b) t = true := by simp [memWfFrom] at hm; exact hm.2
    have hv : v ≠ 0#8 := by simp [memWfFrom] at hm; exact hm.1.2
    cases n with
    | nil => have := h b; simp [memRead] at this; exact absurd this hv
    | cons d u =>
      obtain ⟨e, w⟩ := d
      have he : memWfFrom (some e) u = true := by simp [memWfFrom] at hn; exact hn.2
      have hw : w ≠ 0#8 := by simp [memWfFrom] at hn; exact hn.1.2
      have hbe : b = e := by
        rcases Nat.lt_trichotomy b e with hlt | heq | hgt
        · have := h b
          simp [memRead, show e ≠ b by omega, memRead_below u e b he (by omega)] at this
          exact absurd this hv
        · exact heq
        · have := h e
          simp [memRead, show b ≠ e by omega, memRead_below t b e hb (by omega)] at this
          exact absurd this.symm hw
      subst hbe
      have hvw : v = w := by have := h b; simpa [memRead] using this
      subst hvw
      have : t = u := by
        refine ih u (some b) (some b) hb he ?_
        intro a
        by_cases ha : a ≤ b
        · rw [memRead_below t b a hb ha, memRead_below u b a he ha]
        · have := h a; simpa [memRead, show b ≠ a by omega] using this
      rw [this]

theorem mem_ext (m n : List Host.Cell) (hm : memWf m = true) (hn : memWf n = true)
    (h : ∀ a, memRead m a = memRead n a) : m = n :=
  mem_ext_from m n none none hm hn h

/-! ## Storage -/

theorem all_memWrite (p : Nat → Bool) (m : List Host.Cell) (a : Nat) (v : Byte) (ha : p a = true)
    (h : (m.all fun c => p c.1) = true) : ((memWrite m a v).all fun c => p c.1) = true := by
  induction m with
  | nil => by_cases hv : v = 0#8 <;> simp [memWrite, hv, ha]
  | cons c t ih =>
    obtain ⟨d, w⟩ := c
    simp only [List.all_cons, Bool.and_eq_true] at h
    unfold memWrite
    by_cases h1 : a < d
    · by_cases hv : v = 0#8
      · simp only [h1, hv, if_true, List.all_cons, Bool.and_eq_true]; exact h
      · simp only [h1, hv, if_true, if_false, List.all_cons, Bool.and_eq_true]; exact ⟨ha, h⟩
    · by_cases h2 : a = d
      · by_cases hv : v = 0#8
        · simp only [h2, hv, if_true, Nat.lt_irrefl, if_false]; exact h.2
        · simp only [h2, hv, if_true, if_false, Nat.lt_irrefl, List.all_cons, Bool.and_eq_true]
          exact ⟨h.1, h.2⟩
      · simp only [h1, h2, if_false, List.all_cons, Bool.and_eq_true]; exact ⟨h.1, ih h.2⟩

theorem all_filter (q : Host.Cell → Bool) (p : Host.Cell → Bool) (m : List Host.Cell) (h : m.all p = true) :
    (m.filter q).all p = true := by
  rw [List.all_eq_true] at *
  intro c hc
  exact h c (List.mem_of_mem_filter hc)

/-! ## Regions -/

/-- A byte stored at an offset of a region, where the region has storage there. -/
theorem memRead_storeByte (cfg : Config) (m : List Host.Cell) (r : Region) (off : Nat) (v : Byte) (a : Nat) (h : memWf m = true) :
    memRead (storeByte cfg m r off v) a =
      if off < regionCapacity cfg r ∧ a = regionBase cfg r + off then v else memRead m a := by
  unfold storeByte
  by_cases ho : off < regionCapacity cfg r
  · simp [ho, memRead_memWrite m _ a v h]
  · simp [ho]

theorem memRead_storeByte_ne (cfg : Config) (m : List Host.Cell) (r : Region) (off : Nat) (v : Byte) (a : Nat)
    (hne : a ≠ regionBase cfg r + off) : memRead (storeByte cfg m r off v) a = memRead m a := by
  unfold storeByte
  split
  · exact memRead_memWrite_ne m _ a v hne
  · rfl

theorem memWf_storeByte (cfg : Config) (m : List Host.Cell) (r : Region) (off : Nat) (v : Byte) (h : memWf m = true) :
    memWf (storeByte cfg m r off v) = true := by
  unfold storeByte
  split
  · exact memWf_memWrite m _ v h
  · exact h

theorem memWf_storeBytes (cfg : Config) (m : List Host.Cell) (r : Region) (off : Nat) (bs : List Byte) (h : memWf m = true) :
    memWf (storeBytes cfg m r off bs) = true := by
  induction bs generalizing off with
  | nil => exact h
  | cons v vs ih => exact memWf_storeByte cfg _ r off v (ih (off + 1))

/-- Bytes stored from an offset of a region on: the whole of what `storeBytes` does. -/
theorem memRead_storeBytes (cfg : Config) (m : List Host.Cell) (r : Region) (off : Nat) (bs : List Byte) (a : Nat)
    (h : memWf m = true) :
    memRead (storeBytes cfg m r off bs) a =
      if regionBase cfg r + off ≤ a ∧ a < regionBase cfg r + off + bs.length ∧
          a < regionBase cfg r + regionCapacity cfg r
      then bs.getD (a - (regionBase cfg r + off)) 0 else memRead m a := by
  induction bs generalizing off with
  | nil => rw [if_neg (by simp only [List.length_nil]; omega)]; rfl
  | cons v vs ih =>
    have hw := memWf_storeBytes cfg m r (off + 1) vs h
    show memRead (storeByte cfg (storeBytes cfg m r (off + 1) vs) r off v) a = _
    rw [memRead_storeByte cfg _ r off v a hw, ih (off + 1), List.length_cons]
    by_cases h1 : a = regionBase cfg r + off
    · subst h1
      by_cases h2 : off < regionCapacity cfg r
      · rw [if_pos ⟨h2, rfl⟩, if_pos (by omega)]; simp
      · rw [if_neg (by omega), if_neg (by omega), if_neg (by omega)]
    · rw [if_neg (fun x => h1 x.2)]
      by_cases h3 : regionBase cfg r + off ≤ a ∧ a < regionBase cfg r + off + (vs.length + 1) ∧
          a < regionBase cfg r + regionCapacity cfg r
      · rw [if_pos (by omega), if_pos h3]
        have : a - (regionBase cfg r + off) = (a - (regionBase cfg r + (off + 1))) + 1 := by omega
        rw [this, List.getD_cons_succ]
      · rw [if_neg (by omega), if_neg h3]

/-- Outside a region's storage, storing to it changes no byte, in any memory. -/
theorem memRead_storeBytes_out (cfg : Config) (m : List Host.Cell) (r : Region) (off : Nat) (bs : List Byte) (a : Nat)
    (ha : inCapacity cfg r a = false) : memRead (storeBytes cfg m r off bs) a = memRead m a := by
  induction bs generalizing off with
  | nil => rfl
  | cons v vs ih =>
    show memRead (storeByte cfg (storeBytes cfg m r (off + 1) vs) r off v) a = _
    rw [← ih (off + 1)]
    unfold storeByte
    split
    · apply memRead_memWrite_ne
      intro he
      simp [inCapacity] at ha
      omega
    · rfl

theorem inCapacity_hasStorage (cfg : Config) (r : Region) (a : Nat) (h : inCapacity cfg r a = true) :
    hasStorage cfg a = true := by
  unfold hasStorage
  rw [List.any_eq_true]
  exact ⟨r, by cases r <;> decide, h⟩

theorem placed_storeByte (cfg : Config) (m : List Host.Cell) (r : Region) (off : Nat) (v : Byte)
    (h : (m.all fun c => hasStorage cfg c.1) = true) :
    ((storeByte cfg m r off v).all fun c => hasStorage cfg c.1) = true := by
  unfold storeByte
  split
  · rename_i ho
    refine all_memWrite (hasStorage cfg) m _ v ?_ h
    apply inCapacity_hasStorage cfg r
    simp [inCapacity]; omega
  · exact h

theorem placed_storeBytes (cfg : Config) (m : List Host.Cell) (r : Region) (off : Nat) (bs : List Byte)
    (h : (m.all fun c => hasStorage cfg c.1) = true) :
    ((storeBytes cfg m r off bs).all fun c => hasStorage cfg c.1) = true := by
  induction bs generalizing off with
  | nil => exact h
  | cons v vs ih => exact placed_storeByte cfg _ r off v (ih (off + 1))

theorem memWf_clearRegions (cfg : Config) (m : List Host.Cell) (rs : List Region) (h : memWf m = true) :
    memWf (clearRegions cfg m rs) = true := by
  induction rs generalizing m with
  | nil => exact h
  | cons r t ih => exact ih _ (memWf_memClear m _ _ h)

theorem placed_clearRegions (cfg : Config) (m : List Host.Cell) (rs : List Region)
    (h : (m.all fun c => hasStorage cfg c.1) = true) :
    ((clearRegions cfg m rs).all fun c => hasStorage cfg c.1) = true := by
  induction rs generalizing m with
  | nil => exact h
  | cons r t ih => exact ih _ (all_filter _ _ m h)

/-- Zeroing windows: they read 0, everything else as before, in any memory. -/
theorem memRead_clearRegions (cfg : Config) (m : List Host.Cell) (rs : List Region) (a : Nat) :
    memRead (clearRegions cfg m rs) a = if inWindows cfg rs a then 0#8 else memRead m a := by
  induction rs generalizing m with
  | nil => simp [clearRegions, inWindows]
  | cons r t ih =>
    show memRead (clearRegions cfg (clearRegion cfg m r) t) a = _
    rw [ih]
    have hc : memRead (clearRegion cfg m r) a = if inWindow cfg r a then 0#8 else memRead m a := by
      unfold clearRegion
      rw [memRead_memClear]
      by_cases hw : inWindow cfg r a = true
      · rw [if_neg, if_pos hw]; simp [inWindow] at hw; omega
      · rw [if_pos, if_neg hw]; simp [inWindow] at hw; omega
    rw [hc]
    simp only [inWindows, List.any_cons]
    by_cases h1 : inWindow cfg r a = true <;> by_cases h2 : (t.any fun r => inWindow cfg r a) = true <;>
      simp [h1, h2]

theorem memWf_memOfCells (cfg : Config) (cells : List Host.Cell) : memWf (memOfCells cfg cells) = true := by
  unfold memOfCells
  have : ∀ (cs m : List Host.Cell), memWf m = true →
      memWf (cs.foldl (fun m c => if hasStorage cfg c.1 then memWrite m c.1 c.2 else m) m) = true := by
    intro cs
    induction cs with
    | nil => intro m h; exact h
    | cons c t ih =>
      intro m h
      apply ih
      dsimp only
      split
      · exact memWf_memWrite m _ _ h
      · exact h
  exact this cells [] rfl

theorem placed_memOfCells (cfg : Config) (cells : List Host.Cell) :
    ((memOfCells cfg cells).all fun c => hasStorage cfg c.1) = true := by
  unfold memOfCells
  have : ∀ (cs m : List Host.Cell), (m.all fun c => hasStorage cfg c.1) = true →
      ((cs.foldl (fun m c => if hasStorage cfg c.1 then memWrite m c.1 c.2 else m) m).all
        fun c => hasStorage cfg c.1) = true := by
    intro cs
    induction cs with
    | nil => intro m h; exact h
    | cons c t ih =>
      intro m h
      apply ih
      dsimp only
      split
      · rename_i hs; exact all_memWrite (hasStorage cfg) m _ _ hs h
      · exact h
  exact this cells [] rfl

end Sys2Proof.Laws
end

