-- ==== Sys2Proof/Laws/State.lean ====
section
/-!
SUPPORT. One lemma per field per update of the state, true by `rfl`: what each shared operation of Machine/Ops.lean and
Machine/Registers.lean leaves in each field. Proofs about a step rewrite with these and unfold no record update.
-/

namespace Sys2Proof.Laws

open Sys2Proof Sys2Proof.Machine

/-! ## `setHosterr` -/

@[simp] theorem setHosterr_cfg (s : State) : (setHosterr s).cfg = s.cfg := rfl
@[simp] theorem setHosterr_st (s : State) : (setHosterr s).st = s.st := rfl
@[simp] theorem setHosterr_stage (s : State) : (setHosterr s).stage = s.stage := rfl
@[simp] theorem setHosterr_pass (s : State) : (setHosterr s).pass = s.pass := rfl
@[simp] theorem setHosterr_hosterr (s : State) : (setHosterr s).hosterr = true := rfl
@[simp] theorem setHosterr_candOvf (s : State) : (setHosterr s).candOvf = s.candOvf := rfl
@[simp] theorem setHosterr_cause (s : State) : (setHosterr s).cause = s.cause := rfl
@[simp] theorem setHosterr_imgWidth (s : State) : (setHosterr s).imgWidth = s.imgWidth := rfl
@[simp] theorem setHosterr_imgHeight (s : State) : (setHosterr s).imgHeight = s.imgHeight := rfl
@[simp] theorem setHosterr_hints (s : State) : (setHosterr s).hints = s.hints := rfl
@[simp] theorem setHosterr_irqEn (s : State) : (setHosterr s).irqEn = s.irqEn := rfl
@[simp] theorem setHosterr_irqPend (s : State) : (setHosterr s).irqPend = s.irqPend := rfl
@[simp] theorem setHosterr_arg0 (s : State) : (setHosterr s).arg0 = s.arg0 := rfl
@[simp] theorem setHosterr_arg1 (s : State) : (setHosterr s).arg1 = s.arg1 := rfl
@[simp] theorem setHosterr_res (s : State) : (setHosterr s).res = s.res := rfl
@[simp] theorem setHosterr_cmd (s : State) : (setHosterr s).cmd = s.cmd := rfl
@[simp] theorem setHosterr_exc0 (s : State) : (setHosterr s).exc0 = s.exc0 := rfl
@[simp] theorem setHosterr_binPath (s : State) : (setHosterr s).binPath = s.binPath := rfl
@[simp] theorem setHosterr_det (s : State) : (setHosterr s).det = s.det := rfl
@[simp] theorem setHosterr_sym (s : State) : (setHosterr s).sym = s.sym := rfl
@[simp] theorem setHosterr_ec (s : State) : (setHosterr s).ec = s.ec := rfl
@[simp] theorem setHosterr_bits (s : State) : (setHosterr s).bits = s.bits := rfl
@[simp] theorem setHosterr_mem (s : State) : (setHosterr s).mem = s.mem := rfl
@[simp] theorem setHosterr_host (s : State) : (setHosterr s).host = s.host := rfl
@[simp] theorem setHosterr_rdata (s : State) : (setHosterr s).rdata = s.rdata := rfl

/-! ## `refusedRead` -/

@[simp] theorem refusedRead_cfg (s : State) : (refusedRead s).cfg = s.cfg := rfl
@[simp] theorem refusedRead_st (s : State) : (refusedRead s).st = s.st := rfl
@[simp] theorem refusedRead_stage (s : State) : (refusedRead s).stage = s.stage := rfl
@[simp] theorem refusedRead_pass (s : State) : (refusedRead s).pass = s.pass := rfl
@[simp] theorem refusedRead_hosterr (s : State) : (refusedRead s).hosterr = true := rfl
@[simp] theorem refusedRead_candOvf (s : State) : (refusedRead s).candOvf = s.candOvf := rfl
@[simp] theorem refusedRead_cause (s : State) : (refusedRead s).cause = s.cause := rfl
@[simp] theorem refusedRead_imgWidth (s : State) : (refusedRead s).imgWidth = s.imgWidth := rfl
@[simp] theorem refusedRead_imgHeight (s : State) : (refusedRead s).imgHeight = s.imgHeight := rfl
@[simp] theorem refusedRead_hints (s : State) : (refusedRead s).hints = s.hints := rfl
@[simp] theorem refusedRead_irqEn (s : State) : (refusedRead s).irqEn = s.irqEn := rfl
@[simp] theorem refusedRead_irqPend (s : State) : (refusedRead s).irqPend = s.irqPend := rfl
@[simp] theorem refusedRead_arg0 (s : State) : (refusedRead s).arg0 = s.arg0 := rfl
@[simp] theorem refusedRead_arg1 (s : State) : (refusedRead s).arg1 = s.arg1 := rfl
@[simp] theorem refusedRead_res (s : State) : (refusedRead s).res = s.res := rfl
@[simp] theorem refusedRead_cmd (s : State) : (refusedRead s).cmd = s.cmd := rfl
@[simp] theorem refusedRead_exc0 (s : State) : (refusedRead s).exc0 = s.exc0 := rfl
@[simp] theorem refusedRead_binPath (s : State) : (refusedRead s).binPath = s.binPath := rfl
@[simp] theorem refusedRead_det (s : State) : (refusedRead s).det = s.det := rfl
@[simp] theorem refusedRead_sym (s : State) : (refusedRead s).sym = s.sym := rfl
@[simp] theorem refusedRead_ec (s : State) : (refusedRead s).ec = s.ec := rfl
@[simp] theorem refusedRead_bits (s : State) : (refusedRead s).bits = s.bits := rfl
@[simp] theorem refusedRead_mem (s : State) : (refusedRead s).mem = s.mem := rfl
@[simp] theorem refusedRead_host (s : State) : (refusedRead s).host = s.host := rfl
@[simp] theorem refusedRead_rdata (s : State) : (refusedRead s).rdata = 0 := rfl

/-! ## `freshInternal` -/

@[simp] theorem freshInternal_cfg (s : State) (c : Command) : (freshInternal s c).cfg = s.cfg := rfl
@[simp] theorem freshInternal_st (s : State) (c : Command) : (freshInternal s c).st = s.st := rfl
@[simp] theorem freshInternal_stage (s : State) (c : Command) : (freshInternal s c).stage = s.stage := rfl
@[simp] theorem freshInternal_pass (s : State) (c : Command) : (freshInternal s c).pass = s.pass := rfl
@[simp] theorem freshInternal_hosterr (s : State) (c : Command) : (freshInternal s c).hosterr = s.hosterr := rfl
@[simp] theorem freshInternal_candOvf (s : State) (c : Command) : (freshInternal s c).candOvf = s.candOvf := rfl
@[simp] theorem freshInternal_cause (s : State) (c : Command) : (freshInternal s c).cause = s.cause := rfl
@[simp] theorem freshInternal_imgWidth (s : State) (c : Command) : (freshInternal s c).imgWidth = s.imgWidth := rfl
@[simp] theorem freshInternal_imgHeight (s : State) (c : Command) : (freshInternal s c).imgHeight = s.imgHeight := rfl
@[simp] theorem freshInternal_hints (s : State) (c : Command) : (freshInternal s c).hints = s.hints := rfl
@[simp] theorem freshInternal_irqEn (s : State) (c : Command) : (freshInternal s c).irqEn = s.irqEn := rfl
@[simp] theorem freshInternal_irqPend (s : State) (c : Command) : (freshInternal s c).irqPend = s.irqPend := rfl
@[simp] theorem freshInternal_arg0 (s : State) (c : Command) : (freshInternal s c).arg0 = s.arg0 := rfl
@[simp] theorem freshInternal_arg1 (s : State) (c : Command) : (freshInternal s c).arg1 = s.arg1 := rfl
@[simp] theorem freshInternal_res (s : State) (c : Command) : (freshInternal s c).res = s.res := rfl
@[simp] theorem freshInternal_cmd (s : State) (c : Command) : (freshInternal s c).cmd = c := rfl
@[simp] theorem freshInternal_exc0 (s : State) (c : Command) : (freshInternal s c).exc0 = none := rfl
@[simp] theorem freshInternal_binPath (s : State) (c : Command) : (freshInternal s c).binPath = false := rfl
@[simp] theorem freshInternal_det (s : State) (c : Command) : (freshInternal s c).det = {} := rfl
@[simp] theorem freshInternal_sym (s : State) (c : Command) : (freshInternal s c).sym = {} := rfl
@[simp] theorem freshInternal_ec (s : State) (c : Command) : (freshInternal s c).ec = {} := rfl
@[simp] theorem freshInternal_bits (s : State) (c : Command) : (freshInternal s c).bits = {} := rfl
@[simp] theorem freshInternal_mem (s : State) (c : Command) : (freshInternal s c).mem = s.mem := rfl
@[simp] theorem freshInternal_host (s : State) (c : Command) : (freshInternal s c).host = s.host := rfl
@[simp] theorem freshInternal_rdata (s : State) (c : Command) : (freshInternal s c).rdata = s.rdata := rfl

/-! ## `freshAttempt` -/

@[simp] theorem freshAttempt_cfg (s : State) (c : Command) : (freshAttempt s c).cfg = s.cfg := rfl
@[simp] theorem freshAttempt_st (s : State) (c : Command) : (freshAttempt s c).st = s.st := rfl
@[simp] theorem freshAttempt_stage (s : State) (c : Command) : (freshAttempt s c).stage = s.stage := rfl
@[simp] theorem freshAttempt_pass (s : State) (c : Command) : (freshAttempt s c).pass = false := rfl
@[simp] theorem freshAttempt_hosterr (s : State) (c : Command) : (freshAttempt s c).hosterr = s.hosterr := rfl
@[simp] theorem freshAttempt_candOvf (s : State) (c : Command) : (freshAttempt s c).candOvf = false := rfl
@[simp] theorem freshAttempt_cause (s : State) (c : Command) : (freshAttempt s c).cause = none := rfl
@[simp] theorem freshAttempt_imgWidth (s : State) (c : Command) : (freshAttempt s c).imgWidth = s.imgWidth := rfl
@[simp] theorem freshAttempt_imgHeight (s : State) (c : Command) : (freshAttempt s c).imgHeight = s.imgHeight := rfl
@[simp] theorem freshAttempt_hints (s : State) (c : Command) : (freshAttempt s c).hints = s.hints := rfl
@[simp] theorem freshAttempt_irqEn (s : State) (c : Command) : (freshAttempt s c).irqEn = s.irqEn := rfl
@[simp] theorem freshAttempt_irqPend (s : State) (c : Command) : (freshAttempt s c).irqPend = s.irqPend := rfl
@[simp] theorem freshAttempt_arg0 (s : State) (c : Command) : (freshAttempt s c).arg0 = s.arg0 := rfl
@[simp] theorem freshAttempt_arg1 (s : State) (c : Command) : (freshAttempt s c).arg1 = s.arg1 := rfl
@[simp] theorem freshAttempt_res (s : State) (c : Command) : (freshAttempt s c).res = {} := rfl
@[simp] theorem freshAttempt_cmd (s : State) (c : Command) : (freshAttempt s c).cmd = c := rfl
@[simp] theorem freshAttempt_exc0 (s : State) (c : Command) : (freshAttempt s c).exc0 = none := rfl
@[simp] theorem freshAttempt_binPath (s : State) (c : Command) : (freshAttempt s c).binPath = false := rfl
@[simp] theorem freshAttempt_det (s : State) (c : Command) : (freshAttempt s c).det = {} := rfl
@[simp] theorem freshAttempt_sym (s : State) (c : Command) : (freshAttempt s c).sym = {} := rfl
@[simp] theorem freshAttempt_ec (s : State) (c : Command) : (freshAttempt s c).ec = {} := rfl
@[simp] theorem freshAttempt_bits (s : State) (c : Command) : (freshAttempt s c).bits = {} := rfl
@[simp] theorem freshAttempt_mem (s : State) (c : Command) : (freshAttempt s c).mem = s.mem := rfl
@[simp] theorem freshAttempt_host (s : State) (c : Command) : (freshAttempt s c).host = s.host := rfl
@[simp] theorem freshAttempt_rdata (s : State) (c : Command) : (freshAttempt s c).rdata = s.rdata := rfl

/-! ## `prepare` -/

@[simp] theorem prepare_cfg (s : State) (c : Command) : (prepare s c).cfg = s.cfg := rfl
@[simp] theorem prepare_st (s : State) (c : Command) : (prepare s c).st = s.st := rfl
@[simp] theorem prepare_stage (s : State) (c : Command) : (prepare s c).stage = s.stage := rfl
@[simp] theorem prepare_pass (s : State) (c : Command) : (prepare s c).pass = false := rfl
@[simp] theorem prepare_hosterr (s : State) (c : Command) : (prepare s c).hosterr = s.hosterr := rfl
@[simp] theorem prepare_candOvf (s : State) (c : Command) : (prepare s c).candOvf = false := rfl
@[simp] theorem prepare_cause (s : State) (c : Command) : (prepare s c).cause = none := rfl
@[simp] theorem prepare_imgWidth (s : State) (c : Command) : (prepare s c).imgWidth = s.imgWidth := rfl
@[simp] theorem prepare_imgHeight (s : State) (c : Command) : (prepare s c).imgHeight = s.imgHeight := rfl
@[simp] theorem prepare_hints (s : State) (c : Command) : (prepare s c).hints = s.hints := rfl
@[simp] theorem prepare_irqEn (s : State) (c : Command) : (prepare s c).irqEn = s.irqEn := rfl
@[simp] theorem prepare_irqPend (s : State) (c : Command) : (prepare s c).irqPend = s.irqPend := rfl
@[simp] theorem prepare_arg0 (s : State) (c : Command) : (prepare s c).arg0 = s.arg0 := rfl
@[simp] theorem prepare_arg1 (s : State) (c : Command) : (prepare s c).arg1 = s.arg1 := rfl
@[simp] theorem prepare_res (s : State) (c : Command) : (prepare s c).res = {} := rfl
@[simp] theorem prepare_cmd (s : State) (c : Command) : (prepare s c).cmd = c := rfl
@[simp] theorem prepare_exc0 (s : State) (c : Command) : (prepare s c).exc0 = none := rfl
@[simp] theorem prepare_binPath (s : State) (c : Command) : (prepare s c).binPath = false := rfl
@[simp] theorem prepare_det (s : State) (c : Command) : (prepare s c).det = {} := rfl
@[simp] theorem prepare_sym (s : State) (c : Command) : (prepare s c).sym = {} := rfl
@[simp] theorem prepare_ec (s : State) (c : Command) : (prepare s c).ec = {} := rfl
@[simp] theorem prepare_bits (s : State) (c : Command) : (prepare s c).bits = {} := rfl
@[simp] theorem prepare_mem (s : State) (c : Command) :
    (prepare s c).mem = clearRegions s.cfg s.mem (outputs c) :=
  rfl
@[simp] theorem prepare_host (s : State) (c : Command) : (prepare s c).host = s.host := rfl
@[simp] theorem prepare_rdata (s : State) (c : Command) : (prepare s c).rdata = s.rdata := rfl

/-! ## `endWithExc` -/

@[simp] theorem endWithExc_cfg (s : State) (e : Exc) : (endWithExc s e).cfg = s.cfg := rfl
@[simp] theorem endWithExc_st (s : State) (e : Exc) :
    (endWithExc s e).st = excState (if s.pass then s.exc0.getD e else e) :=
  rfl
@[simp] theorem endWithExc_stage (s : State) (e : Exc) :
    (endWithExc s e).stage = excStage (if s.pass then s.exc0.getD e else e) :=
  rfl
@[simp] theorem endWithExc_pass (s : State) (e : Exc) : (endWithExc s e).pass = s.pass := rfl
@[simp] theorem endWithExc_hosterr (s : State) (e : Exc) : (endWithExc s e).hosterr = s.hosterr := rfl
@[simp] theorem endWithExc_candOvf (s : State) (e : Exc) : (endWithExc s e).candOvf = s.candOvf := rfl
@[simp] theorem endWithExc_cause (s : State) (e : Exc) :
    (endWithExc s e).cause = some (if s.pass then s.exc0.getD e else e) :=
  rfl
@[simp] theorem endWithExc_imgWidth (s : State) (e : Exc) : (endWithExc s e).imgWidth = s.imgWidth := rfl
@[simp] theorem endWithExc_imgHeight (s : State) (e : Exc) : (endWithExc s e).imgHeight = s.imgHeight := rfl
@[simp] theorem endWithExc_hints (s : State) (e : Exc) : (endWithExc s e).hints = s.hints := rfl
@[simp] theorem endWithExc_irqEn (s : State) (e : Exc) : (endWithExc s e).irqEn = s.irqEn := rfl
@[simp] theorem endWithExc_irqPend (s : State) (e : Exc) :
    (endWithExc s e).irqPend = s.irqPend ||| excIrq (if s.pass then s.exc0.getD e else e) :=
  rfl
@[simp] theorem endWithExc_arg0 (s : State) (e : Exc) : (endWithExc s e).arg0 = s.arg0 := rfl
@[simp] theorem endWithExc_arg1 (s : State) (e : Exc) : (endWithExc s e).arg1 = s.arg1 := rfl
@[simp] theorem endWithExc_res (s : State) (e : Exc) : (endWithExc s e).res = {} := rfl
@[simp] theorem endWithExc_cmd (s : State) (e : Exc) : (endWithExc s e).cmd = .none := rfl
@[simp] theorem endWithExc_exc0 (s : State) (e : Exc) : (endWithExc s e).exc0 = none := rfl
@[simp] theorem endWithExc_binPath (s : State) (e : Exc) : (endWithExc s e).binPath = false := rfl
@[simp] theorem endWithExc_det (s : State) (e : Exc) : (endWithExc s e).det = {} := rfl
@[simp] theorem endWithExc_sym (s : State) (e : Exc) : (endWithExc s e).sym = {} := rfl
@[simp] theorem endWithExc_ec (s : State) (e : Exc) : (endWithExc s e).ec = {} := rfl
@[simp] theorem endWithExc_bits (s : State) (e : Exc) : (endWithExc s e).bits = {} := rfl
@[simp] theorem endWithExc_mem (s : State) (e : Exc) :
    (endWithExc s e).mem = clearRegions s.cfg s.mem (outputs s.cmd) :=
  rfl
@[simp] theorem endWithExc_host (s : State) (e : Exc) : (endWithExc s e).host = s.host := rfl
@[simp] theorem endWithExc_rdata (s : State) (e : Exc) : (endWithExc s e).rdata = s.rdata := rfl

/-! ## `mirrorEdge` -/

@[simp] theorem mirrorEdge_cfg (s : State) (e : Exc) : (mirrorEdge s e).cfg = s.cfg := rfl
@[simp] theorem mirrorEdge_st (s : State) (e : Exc) : (mirrorEdge s e).st = s.st := rfl
@[simp] theorem mirrorEdge_stage (s : State) (e : Exc) : (mirrorEdge s e).stage = .parse := rfl
@[simp] theorem mirrorEdge_pass (s : State) (e : Exc) : (mirrorEdge s e).pass = true := rfl
@[simp] theorem mirrorEdge_hosterr (s : State) (e : Exc) : (mirrorEdge s e).hosterr = s.hosterr := rfl
@[simp] theorem mirrorEdge_candOvf (s : State) (e : Exc) : (mirrorEdge s e).candOvf = s.candOvf := rfl
@[simp] theorem mirrorEdge_cause (s : State) (e : Exc) : (mirrorEdge s e).cause = s.cause := rfl
@[simp] theorem mirrorEdge_imgWidth (s : State) (e : Exc) : (mirrorEdge s e).imgWidth = s.imgWidth := rfl
@[simp] theorem mirrorEdge_imgHeight (s : State) (e : Exc) : (mirrorEdge s e).imgHeight = s.imgHeight := rfl
@[simp] theorem mirrorEdge_hints (s : State) (e : Exc) : (mirrorEdge s e).hints = s.hints := rfl
@[simp] theorem mirrorEdge_irqEn (s : State) (e : Exc) : (mirrorEdge s e).irqEn = s.irqEn := rfl
@[simp] theorem mirrorEdge_irqPend (s : State) (e : Exc) : (mirrorEdge s e).irqPend = s.irqPend := rfl
@[simp] theorem mirrorEdge_arg0 (s : State) (e : Exc) : (mirrorEdge s e).arg0 = s.arg0 := rfl
@[simp] theorem mirrorEdge_arg1 (s : State) (e : Exc) : (mirrorEdge s e).arg1 = s.arg1 := rfl
@[simp] theorem mirrorEdge_res (s : State) (e : Exc) : (mirrorEdge s e).res = s.res := rfl
@[simp] theorem mirrorEdge_cmd (s : State) (e : Exc) : (mirrorEdge s e).cmd = s.cmd := rfl
@[simp] theorem mirrorEdge_exc0 (s : State) (e : Exc) : (mirrorEdge s e).exc0 = some e := rfl
@[simp] theorem mirrorEdge_binPath (s : State) (e : Exc) : (mirrorEdge s e).binPath = s.binPath := rfl
@[simp] theorem mirrorEdge_det (s : State) (e : Exc) : (mirrorEdge s e).det = s.det := rfl
@[simp] theorem mirrorEdge_sym (s : State) (e : Exc) : (mirrorEdge s e).sym = {} := rfl
@[simp] theorem mirrorEdge_ec (s : State) (e : Exc) : (mirrorEdge s e).ec = {} := rfl
@[simp] theorem mirrorEdge_bits (s : State) (e : Exc) : (mirrorEdge s e).bits = {} := rfl
@[simp] theorem mirrorEdge_mem (s : State) (e : Exc) :
    (mirrorEdge s e).mem = clearRegions s.cfg s.mem [.cw, .data, .text, .seg] :=
  rfl
@[simp] theorem mirrorEdge_host (s : State) (e : Exc) : (mirrorEdge s e).host = s.host := rfl
@[simp] theorem mirrorEdge_rdata (s : State) (e : Exc) : (mirrorEdge s e).rdata = s.rdata := rfl

/-! ## `clearStatus` -/

@[simp] theorem clearStatus_cfg (s : State) : (clearStatus s).cfg = s.cfg := rfl
@[simp] theorem clearStatus_st (s : State) : (clearStatus s).st = .idle := rfl
@[simp] theorem clearStatus_stage (s : State) : (clearStatus s).stage = .none := rfl
@[simp] theorem clearStatus_pass (s : State) : (clearStatus s).pass = false := rfl
@[simp] theorem clearStatus_hosterr (s : State) : (clearStatus s).hosterr = false := rfl
@[simp] theorem clearStatus_candOvf (s : State) : (clearStatus s).candOvf = false := rfl
@[simp] theorem clearStatus_cause (s : State) : (clearStatus s).cause = none := rfl
@[simp] theorem clearStatus_imgWidth (s : State) : (clearStatus s).imgWidth = s.imgWidth := rfl
@[simp] theorem clearStatus_imgHeight (s : State) : (clearStatus s).imgHeight = s.imgHeight := rfl
@[simp] theorem clearStatus_hints (s : State) : (clearStatus s).hints = s.hints := rfl
@[simp] theorem clearStatus_irqEn (s : State) : (clearStatus s).irqEn = s.irqEn := rfl
@[simp] theorem clearStatus_irqPend (s : State) : (clearStatus s).irqPend = 0 := rfl
@[simp] theorem clearStatus_arg0 (s : State) : (clearStatus s).arg0 = s.arg0 := rfl
@[simp] theorem clearStatus_arg1 (s : State) : (clearStatus s).arg1 = s.arg1 := rfl
@[simp] theorem clearStatus_res (s : State) : (clearStatus s).res = {} := rfl
@[simp] theorem clearStatus_cmd (s : State) : (clearStatus s).cmd = .none := rfl
@[simp] theorem clearStatus_exc0 (s : State) : (clearStatus s).exc0 = none := rfl
@[simp] theorem clearStatus_binPath (s : State) : (clearStatus s).binPath = false := rfl
@[simp] theorem clearStatus_det (s : State) : (clearStatus s).det = {} := rfl
@[simp] theorem clearStatus_sym (s : State) : (clearStatus s).sym = {} := rfl
@[simp] theorem clearStatus_ec (s : State) : (clearStatus s).ec = {} := rfl
@[simp] theorem clearStatus_bits (s : State) : (clearStatus s).bits = {} := rfl
@[simp] theorem clearStatus_mem (s : State) : (clearStatus s).mem = s.mem := rfl
@[simp] theorem clearStatus_host (s : State) : (clearStatus s).host = s.host := rfl
@[simp] theorem clearStatus_rdata (s : State) : (clearStatus s).rdata = s.rdata := rfl

/-! ## `endStep` -/

@[simp] theorem endStep_cfg (s : State) : (endStep s).cfg = s.cfg := rfl
@[simp] theorem endStep_st (s : State) : (endStep s).st = .done := rfl
@[simp] theorem endStep_stage (s : State) : (endStep s).stage = .fin := rfl
@[simp] theorem endStep_pass (s : State) : (endStep s).pass = s.pass := rfl
@[simp] theorem endStep_hosterr (s : State) : (endStep s).hosterr = s.hosterr := rfl
@[simp] theorem endStep_candOvf (s : State) : (endStep s).candOvf = s.candOvf := rfl
@[simp] theorem endStep_cause (s : State) : (endStep s).cause = none := rfl
@[simp] theorem endStep_imgWidth (s : State) : (endStep s).imgWidth = s.imgWidth := rfl
@[simp] theorem endStep_imgHeight (s : State) : (endStep s).imgHeight = s.imgHeight := rfl
@[simp] theorem endStep_hints (s : State) : (endStep s).hints = s.hints := rfl
@[simp] theorem endStep_irqEn (s : State) : (endStep s).irqEn = s.irqEn := rfl
@[simp] theorem endStep_irqPend (s : State) : (endStep s).irqPend = s.irqPend ||| 1 := rfl
@[simp] theorem endStep_arg0 (s : State) : (endStep s).arg0 = s.arg0 := rfl
@[simp] theorem endStep_arg1 (s : State) : (endStep s).arg1 = s.arg1 := rfl
@[simp] theorem endStep_res (s : State) : (endStep s).res = finalResults s := rfl
@[simp] theorem endStep_cmd (s : State) : (endStep s).cmd = .none := rfl
@[simp] theorem endStep_exc0 (s : State) : (endStep s).exc0 = none := rfl
@[simp] theorem endStep_binPath (s : State) : (endStep s).binPath = false := rfl
@[simp] theorem endStep_det (s : State) : (endStep s).det = {} := rfl
@[simp] theorem endStep_sym (s : State) : (endStep s).sym = {} := rfl
@[simp] theorem endStep_ec (s : State) : (endStep s).ec = {} := rfl
@[simp] theorem endStep_bits (s : State) : (endStep s).bits = {} := rfl
@[simp] theorem endStep_mem (s : State) : (endStep s).mem = s.mem := rfl
@[simp] theorem endStep_host (s : State) : (endStep s).host = s.host := rfl
@[simp] theorem endStep_rdata (s : State) : (endStep s).rdata = s.rdata := rfl

/-! ## `enterBits` -/

@[simp] theorem enterBits_cfg (s : State) : (enterBits s).cfg = s.cfg := rfl
@[simp] theorem enterBits_st (s : State) : (enterBits s).st = s.st := rfl
@[simp] theorem enterBits_stage (s : State) : (enterBits s).stage = s.stage := rfl
@[simp] theorem enterBits_pass (s : State) : (enterBits s).pass = s.pass := rfl
@[simp] theorem enterBits_hosterr (s : State) : (enterBits s).hosterr = s.hosterr := rfl
@[simp] theorem enterBits_candOvf (s : State) : (enterBits s).candOvf = s.candOvf := rfl
@[simp] theorem enterBits_cause (s : State) : (enterBits s).cause = s.cause := rfl
@[simp] theorem enterBits_imgWidth (s : State) : (enterBits s).imgWidth = s.imgWidth := rfl
@[simp] theorem enterBits_imgHeight (s : State) : (enterBits s).imgHeight = s.imgHeight := rfl
@[simp] theorem enterBits_hints (s : State) : (enterBits s).hints = s.hints := rfl
@[simp] theorem enterBits_irqEn (s : State) : (enterBits s).irqEn = s.irqEn := rfl
@[simp] theorem enterBits_irqPend (s : State) : (enterBits s).irqPend = s.irqPend := rfl
@[simp] theorem enterBits_arg0 (s : State) : (enterBits s).arg0 = s.arg0 := rfl
@[simp] theorem enterBits_arg1 (s : State) : (enterBits s).arg1 = s.arg1 := rfl
@[simp] theorem enterBits_res (s : State) : (enterBits s).res = s.res := rfl
@[simp] theorem enterBits_cmd (s : State) : (enterBits s).cmd = s.cmd := rfl
@[simp] theorem enterBits_exc0 (s : State) : (enterBits s).exc0 = s.exc0 := rfl
@[simp] theorem enterBits_binPath (s : State) : (enterBits s).binPath = s.binPath := rfl
@[simp] theorem enterBits_det (s : State) : (enterBits s).det = s.det := rfl
@[simp] theorem enterBits_sym (s : State) : (enterBits s).sym = s.sym := rfl
@[simp] theorem enterBits_ec (s : State) : (enterBits s).ec = s.ec := rfl
@[simp] theorem enterBits_mem (s : State) : (enterBits s).mem = s.mem := rfl
@[simp] theorem enterBits_host (s : State) : (enterBits s).host = s.host := rfl
@[simp] theorem enterBits_rdata (s : State) : (enterBits s).rdata = s.rdata := rfl

/-! ## `finishBits` -/

@[simp] theorem finishBits_cfg (s : State) : (finishBits s).cfg = s.cfg := rfl
@[simp] theorem finishBits_st (s : State) : (finishBits s).st = s.st := rfl
@[simp] theorem finishBits_stage (s : State) : (finishBits s).stage = nextStage s.cmd .bits := rfl
@[simp] theorem finishBits_pass (s : State) : (finishBits s).pass = s.pass := rfl
@[simp] theorem finishBits_hosterr (s : State) : (finishBits s).hosterr = s.hosterr := rfl
@[simp] theorem finishBits_candOvf (s : State) : (finishBits s).candOvf = s.candOvf := rfl
@[simp] theorem finishBits_cause (s : State) : (finishBits s).cause = s.cause := rfl
@[simp] theorem finishBits_imgWidth (s : State) : (finishBits s).imgWidth = s.imgWidth := rfl
@[simp] theorem finishBits_imgHeight (s : State) : (finishBits s).imgHeight = s.imgHeight := rfl
@[simp] theorem finishBits_hints (s : State) : (finishBits s).hints = s.hints := rfl
@[simp] theorem finishBits_irqEn (s : State) : (finishBits s).irqEn = s.irqEn := rfl
@[simp] theorem finishBits_irqPend (s : State) : (finishBits s).irqPend = s.irqPend := rfl
@[simp] theorem finishBits_arg0 (s : State) : (finishBits s).arg0 = s.arg0 := rfl
@[simp] theorem finishBits_arg1 (s : State) : (finishBits s).arg1 = s.arg1 := rfl
@[simp] theorem finishBits_res (s : State) : (finishBits s).res = s.res := rfl
@[simp] theorem finishBits_cmd (s : State) : (finishBits s).cmd = s.cmd := rfl
@[simp] theorem finishBits_exc0 (s : State) : (finishBits s).exc0 = s.exc0 := rfl
@[simp] theorem finishBits_binPath (s : State) : (finishBits s).binPath = s.binPath := rfl
@[simp] theorem finishBits_det (s : State) : (finishBits s).det = s.det := rfl
@[simp] theorem finishBits_sym (s : State) : (finishBits s).sym = s.sym := rfl
@[simp] theorem finishBits_ec (s : State) : (finishBits s).ec = s.ec := rfl
@[simp] theorem finishBits_bits (s : State) : (finishBits s).bits = { s.bits with running := false } := rfl
@[simp] theorem finishBits_mem (s : State) : (finishBits s).mem = s.mem := rfl
@[simp] theorem finishBits_host (s : State) : (finishBits s).host = s.host := rfl
@[simp] theorem finishBits_rdata (s : State) : (finishBits s).rdata = s.rdata := rfl

/-! ## `stageDone` -/

@[simp] theorem stageDone_cfg (s : State) (d : Stage) : (stageDone s d).cfg = s.cfg := rfl
@[simp] theorem stageDone_st (s : State) (d : Stage) : (stageDone s d).st = s.st := rfl
@[simp] theorem stageDone_stage (s : State) (d : Stage) : (stageDone s d).stage = nextStage s.cmd d := rfl
@[simp] theorem stageDone_pass (s : State) (d : Stage) : (stageDone s d).pass = s.pass := rfl
@[simp] theorem stageDone_hosterr (s : State) (d : Stage) : (stageDone s d).hosterr = s.hosterr := rfl
@[simp] theorem stageDone_candOvf (s : State) (d : Stage) : (stageDone s d).candOvf = s.candOvf := rfl
@[simp] theorem stageDone_cause (s : State) (d : Stage) : (stageDone s d).cause = s.cause := rfl
@[simp] theorem stageDone_imgWidth (s : State) (d : Stage) : (stageDone s d).imgWidth = s.imgWidth := rfl
@[simp] theorem stageDone_imgHeight (s : State) (d : Stage) : (stageDone s d).imgHeight = s.imgHeight := rfl
@[simp] theorem stageDone_hints (s : State) (d : Stage) : (stageDone s d).hints = s.hints := rfl
@[simp] theorem stageDone_irqEn (s : State) (d : Stage) : (stageDone s d).irqEn = s.irqEn := rfl
@[simp] theorem stageDone_irqPend (s : State) (d : Stage) : (stageDone s d).irqPend = s.irqPend := rfl
@[simp] theorem stageDone_arg0 (s : State) (d : Stage) : (stageDone s d).arg0 = s.arg0 := rfl
@[simp] theorem stageDone_arg1 (s : State) (d : Stage) : (stageDone s d).arg1 = s.arg1 := rfl
@[simp] theorem stageDone_res (s : State) (d : Stage) : (stageDone s d).res = s.res := rfl
@[simp] theorem stageDone_cmd (s : State) (d : Stage) : (stageDone s d).cmd = s.cmd := rfl
@[simp] theorem stageDone_exc0 (s : State) (d : Stage) : (stageDone s d).exc0 = s.exc0 := rfl
@[simp] theorem stageDone_binPath (s : State) (d : Stage) : (stageDone s d).binPath = s.binPath := rfl
@[simp] theorem stageDone_det (s : State) (d : Stage) : (stageDone s d).det = s.det := rfl
@[simp] theorem stageDone_sym (s : State) (d : Stage) : (stageDone s d).sym = s.sym := rfl
@[simp] theorem stageDone_ec (s : State) (d : Stage) : (stageDone s d).ec = s.ec := rfl
@[simp] theorem stageDone_bits (s : State) (d : Stage) : (stageDone s d).bits = s.bits := rfl
@[simp] theorem stageDone_mem (s : State) (d : Stage) : (stageDone s d).mem = s.mem := rfl
@[simp] theorem stageDone_host (s : State) (d : Stage) : (stageDone s d).host = s.host := rfl
@[simp] theorem stageDone_rdata (s : State) (d : Stage) : (stageDone s d).rdata = s.rdata := rfl

/-! ## `resetTo` -/

@[simp] theorem resetTo_cfg (s : State) (m : List Host.Cell) (r : List HostEvent) : (resetTo s m r).cfg = s.cfg := rfl
@[simp] theorem resetTo_st (s : State) (m : List Host.Cell) (r : List HostEvent) : (resetTo s m r).st = .idle := rfl
@[simp] theorem resetTo_stage (s : State) (m : List Host.Cell) (r : List HostEvent) :
    (resetTo s m r).stage = .none :=
  rfl
@[simp] theorem resetTo_pass (s : State) (m : List Host.Cell) (r : List HostEvent) :
    (resetTo s m r).pass = false :=
  rfl
@[simp] theorem resetTo_hosterr (s : State) (m : List Host.Cell) (r : List HostEvent) :
    (resetTo s m r).hosterr = false :=
  rfl
@[simp] theorem resetTo_candOvf (s : State) (m : List Host.Cell) (r : List HostEvent) :
    (resetTo s m r).candOvf = false :=
  rfl
@[simp] theorem resetTo_cause (s : State) (m : List Host.Cell) (r : List HostEvent) :
    (resetTo s m r).cause = none :=
  rfl
@[simp] theorem resetTo_imgWidth (s : State) (m : List Host.Cell) (r : List HostEvent) :
    (resetTo s m r).imgWidth = 0 :=
  rfl
@[simp] theorem resetTo_imgHeight (s : State) (m : List Host.Cell) (r : List HostEvent) :
    (resetTo s m r).imgHeight = 0 :=
  rfl
@[simp] theorem resetTo_hints (s : State) (m : List Host.Cell) (r : List HostEvent) : (resetTo s m r).hints = 0 := rfl
@[simp] theorem resetTo_irqEn (s : State) (m : List Host.Cell) (r : List HostEvent) : (resetTo s m r).irqEn = 0 := rfl
@[simp] theorem resetTo_irqPend (s : State) (m : List Host.Cell) (r : List HostEvent) :
    (resetTo s m r).irqPend = 0 :=
  rfl
@[simp] theorem resetTo_arg0 (s : State) (m : List Host.Cell) (r : List HostEvent) : (resetTo s m r).arg0 = 0 := rfl
@[simp] theorem resetTo_arg1 (s : State) (m : List Host.Cell) (r : List HostEvent) : (resetTo s m r).arg1 = 0 := rfl
@[simp] theorem resetTo_res (s : State) (m : List Host.Cell) (r : List HostEvent) : (resetTo s m r).res = {} := rfl
@[simp] theorem resetTo_cmd (s : State) (m : List Host.Cell) (r : List HostEvent) : (resetTo s m r).cmd = .none := rfl
@[simp] theorem resetTo_exc0 (s : State) (m : List Host.Cell) (r : List HostEvent) :
    (resetTo s m r).exc0 = none :=
  rfl
@[simp] theorem resetTo_binPath (s : State) (m : List Host.Cell) (r : List HostEvent) :
    (resetTo s m r).binPath = false :=
  rfl
@[simp] theorem resetTo_det (s : State) (m : List Host.Cell) (r : List HostEvent) : (resetTo s m r).det = {} := rfl
@[simp] theorem resetTo_sym (s : State) (m : List Host.Cell) (r : List HostEvent) : (resetTo s m r).sym = {} := rfl
@[simp] theorem resetTo_ec (s : State) (m : List Host.Cell) (r : List HostEvent) : (resetTo s m r).ec = {} := rfl
@[simp] theorem resetTo_bits (s : State) (m : List Host.Cell) (r : List HostEvent) : (resetTo s m r).bits = {} := rfl
@[simp] theorem resetTo_mem (s : State) (m : List Host.Cell) (r : List HostEvent) :
    (resetTo s m r).mem = memOfCells s.cfg m :=
  rfl
@[simp] theorem resetTo_host (s : State) (m : List Host.Cell) (r : List HostEvent) : (resetTo s m r).host = r := rfl
@[simp] theorem resetTo_rdata (s : State) (m : List Host.Cell) (r : List HostEvent) : (resetTo s m r).rdata = 0 := rfl

/-! ## `advance` -/

@[simp] theorem advance_cfg (s : State) (n : Nat) : (advance s n).cfg = s.cfg := rfl
@[simp] theorem advance_st (s : State) (n : Nat) : (advance s n).st = s.st := rfl
@[simp] theorem advance_stage (s : State) (n : Nat) : (advance s n).stage = s.stage := rfl
@[simp] theorem advance_pass (s : State) (n : Nat) : (advance s n).pass = s.pass := rfl
@[simp] theorem advance_hosterr (s : State) (n : Nat) : (advance s n).hosterr = s.hosterr := rfl
@[simp] theorem advance_candOvf (s : State) (n : Nat) : (advance s n).candOvf = s.candOvf := rfl
@[simp] theorem advance_cause (s : State) (n : Nat) : (advance s n).cause = s.cause := rfl
@[simp] theorem advance_imgWidth (s : State) (n : Nat) : (advance s n).imgWidth = s.imgWidth := rfl
@[simp] theorem advance_imgHeight (s : State) (n : Nat) : (advance s n).imgHeight = s.imgHeight := rfl
@[simp] theorem advance_hints (s : State) (n : Nat) : (advance s n).hints = s.hints := rfl
@[simp] theorem advance_irqEn (s : State) (n : Nat) : (advance s n).irqEn = s.irqEn := rfl
@[simp] theorem advance_irqPend (s : State) (n : Nat) : (advance s n).irqPend = s.irqPend := rfl
@[simp] theorem advance_arg0 (s : State) (n : Nat) : (advance s n).arg0 = s.arg0 := rfl
@[simp] theorem advance_arg1 (s : State) (n : Nat) : (advance s n).arg1 = s.arg1 := rfl
@[simp] theorem advance_res (s : State) (n : Nat) : (advance s n).res = s.res := rfl
@[simp] theorem advance_cmd (s : State) (n : Nat) : (advance s n).cmd = s.cmd := rfl
@[simp] theorem advance_exc0 (s : State) (n : Nat) : (advance s n).exc0 = s.exc0 := rfl
@[simp] theorem advance_binPath (s : State) (n : Nat) : (advance s n).binPath = s.binPath := rfl
@[simp] theorem advance_det (s : State) (n : Nat) : (advance s n).det = s.det := rfl
@[simp] theorem advance_sym (s : State) (n : Nat) : (advance s n).sym = s.sym := rfl
@[simp] theorem advance_ec (s : State) (n : Nat) : (advance s n).ec = s.ec := rfl
@[simp] theorem advance_bits (s : State) (n : Nat) :
    (advance s n).bits = { s.bits with bitpos := s.bits.bitpos + BitVec.ofNat 15 n } :=
  rfl
@[simp] theorem advance_mem (s : State) (n : Nat) : (advance s n).mem = s.mem := rfl
@[simp] theorem advance_host (s : State) (n : Nat) : (advance s n).host = s.host := rfl
@[simp] theorem advance_rdata (s : State) (n : Nat) : (advance s n).rdata = s.rdata := rfl

/-! ## `emitBytes` -/

@[simp] theorem emitBytes_cfg (s : State) (bs : List Byte) : (emitBytes s bs).cfg = s.cfg := rfl
@[simp] theorem emitBytes_st (s : State) (bs : List Byte) : (emitBytes s bs).st = s.st := rfl
@[simp] theorem emitBytes_stage (s : State) (bs : List Byte) : (emitBytes s bs).stage = s.stage := rfl
@[simp] theorem emitBytes_pass (s : State) (bs : List Byte) : (emitBytes s bs).pass = s.pass := rfl
@[simp] theorem emitBytes_hosterr (s : State) (bs : List Byte) : (emitBytes s bs).hosterr = s.hosterr := rfl
@[simp] theorem emitBytes_candOvf (s : State) (bs : List Byte) : (emitBytes s bs).candOvf = s.candOvf := rfl
@[simp] theorem emitBytes_cause (s : State) (bs : List Byte) : (emitBytes s bs).cause = s.cause := rfl
@[simp] theorem emitBytes_imgWidth (s : State) (bs : List Byte) : (emitBytes s bs).imgWidth = s.imgWidth := rfl
@[simp] theorem emitBytes_imgHeight (s : State) (bs : List Byte) : (emitBytes s bs).imgHeight = s.imgHeight := rfl
@[simp] theorem emitBytes_hints (s : State) (bs : List Byte) : (emitBytes s bs).hints = s.hints := rfl
@[simp] theorem emitBytes_irqEn (s : State) (bs : List Byte) : (emitBytes s bs).irqEn = s.irqEn := rfl
@[simp] theorem emitBytes_irqPend (s : State) (bs : List Byte) : (emitBytes s bs).irqPend = s.irqPend := rfl
@[simp] theorem emitBytes_arg0 (s : State) (bs : List Byte) : (emitBytes s bs).arg0 = s.arg0 := rfl
@[simp] theorem emitBytes_arg1 (s : State) (bs : List Byte) : (emitBytes s bs).arg1 = s.arg1 := rfl
@[simp] theorem emitBytes_res (s : State) (bs : List Byte) : (emitBytes s bs).res = s.res := rfl
@[simp] theorem emitBytes_cmd (s : State) (bs : List Byte) : (emitBytes s bs).cmd = s.cmd := rfl
@[simp] theorem emitBytes_exc0 (s : State) (bs : List Byte) : (emitBytes s bs).exc0 = s.exc0 := rfl
@[simp] theorem emitBytes_binPath (s : State) (bs : List Byte) : (emitBytes s bs).binPath = s.binPath := rfl
@[simp] theorem emitBytes_det (s : State) (bs : List Byte) : (emitBytes s bs).det = s.det := rfl
@[simp] theorem emitBytes_sym (s : State) (bs : List Byte) : (emitBytes s bs).sym = s.sym := rfl
@[simp] theorem emitBytes_ec (s : State) (bs : List Byte) : (emitBytes s bs).ec = s.ec := rfl
@[simp] theorem emitBytes_bits (s : State) (bs : List Byte) :
    (emitBytes s bs).bits = { s.bits with tlen := s.bits.tlen + bs.length } :=
  rfl
@[simp] theorem emitBytes_mem (s : State) (bs : List Byte) :
    (emitBytes s bs).mem = storeBytes s.cfg s.mem .text s.bits.tlen bs :=
  rfl
@[simp] theorem emitBytes_host (s : State) (bs : List Byte) : (emitBytes s bs).host = s.host := rfl
@[simp] theorem emitBytes_rdata (s : State) (bs : List Byte) : (emitBytes s bs).rdata = s.rdata := rfl

/-! ## `appendSeg` -/

@[simp] theorem appendSeg_cfg (s : State) (m k : Nat) (v : Word) (o l : Nat) :
    (appendSeg s m k v o l).cfg = s.cfg :=
  rfl
@[simp] theorem appendSeg_st (s : State) (m k : Nat) (v : Word) (o l : Nat) : (appendSeg s m k v o l).st = s.st := rfl
@[simp] theorem appendSeg_stage (s : State) (m k : Nat) (v : Word) (o l : Nat) :
    (appendSeg s m k v o l).stage = s.stage :=
  rfl
@[simp] theorem appendSeg_pass (s : State) (m k : Nat) (v : Word) (o l : Nat) :
    (appendSeg s m k v o l).pass = s.pass :=
  rfl
@[simp] theorem appendSeg_hosterr (s : State) (m k : Nat) (v : Word) (o l : Nat) :
    (appendSeg s m k v o l).hosterr = s.hosterr :=
  rfl
@[simp] theorem appendSeg_candOvf (s : State) (m k : Nat) (v : Word) (o l : Nat) :
    (appendSeg s m k v o l).candOvf = s.candOvf :=
  rfl
@[simp] theorem appendSeg_cause (s : State) (m k : Nat) (v : Word) (o l : Nat) :
    (appendSeg s m k v o l).cause = s.cause :=
  rfl
@[simp] theorem appendSeg_imgWidth (s : State) (m k : Nat) (v : Word) (o l : Nat) :
    (appendSeg s m k v o l).imgWidth = s.imgWidth :=
  rfl
@[simp] theorem appendSeg_imgHeight (s : State) (m k : Nat) (v : Word) (o l : Nat) :
    (appendSeg s m k v o l).imgHeight = s.imgHeight :=
  rfl
@[simp] theorem appendSeg_hints (s : State) (m k : Nat) (v : Word) (o l : Nat) :
    (appendSeg s m k v o l).hints = s.hints :=
  rfl
@[simp] theorem appendSeg_irqEn (s : State) (m k : Nat) (v : Word) (o l : Nat) :
    (appendSeg s m k v o l).irqEn = s.irqEn :=
  rfl
@[simp] theorem appendSeg_irqPend (s : State) (m k : Nat) (v : Word) (o l : Nat) :
    (appendSeg s m k v o l).irqPend = s.irqPend :=
  rfl
@[simp] theorem appendSeg_arg0 (s : State) (m k : Nat) (v : Word) (o l : Nat) :
    (appendSeg s m k v o l).arg0 = s.arg0 :=
  rfl
@[simp] theorem appendSeg_arg1 (s : State) (m k : Nat) (v : Word) (o l : Nat) :
    (appendSeg s m k v o l).arg1 = s.arg1 :=
  rfl
@[simp] theorem appendSeg_res (s : State) (m k : Nat) (v : Word) (o l : Nat) :
    (appendSeg s m k v o l).res = s.res :=
  rfl
@[simp] theorem appendSeg_cmd (s : State) (m k : Nat) (v : Word) (o l : Nat) :
    (appendSeg s m k v o l).cmd = s.cmd :=
  rfl
@[simp] theorem appendSeg_exc0 (s : State) (m k : Nat) (v : Word) (o l : Nat) :
    (appendSeg s m k v o l).exc0 = s.exc0 :=
  rfl
@[simp] theorem appendSeg_binPath (s : State) (m k : Nat) (v : Word) (o l : Nat) :
    (appendSeg s m k v o l).binPath = s.binPath :=
  rfl
@[simp] theorem appendSeg_det (s : State) (m k : Nat) (v : Word) (o l : Nat) :
    (appendSeg s m k v o l).det = s.det :=
  rfl
@[simp] theorem appendSeg_sym (s : State) (m k : Nat) (v : Word) (o l : Nat) :
    (appendSeg s m k v o l).sym = s.sym :=
  rfl
@[simp] theorem appendSeg_ec (s : State) (m k : Nat) (v : Word) (o l : Nat) : (appendSeg s m k v o l).ec = s.ec := rfl
@[simp] theorem appendSeg_bits (s : State) (m k : Nat) (v : Word) (o l : Nat) :
    (appendSeg s m k v o l).bits = { s.bits with nseg := s.bits.nseg + 1 } :=
  rfl
@[simp] theorem appendSeg_mem (s : State) (m k : Nat) (v : Word) (o l : Nat) :
    (appendSeg s m k v o l).mem = storeBytes s.cfg s.mem .seg (16 * s.bits.nseg) (segEntry m k v o l) :=
  rfl
@[simp] theorem appendSeg_host (s : State) (m k : Nat) (v : Word) (o l : Nat) :
    (appendSeg s m k v o l).host = s.host :=
  rfl
@[simp] theorem appendSeg_rdata (s : State) (m k : Nat) (v : Word) (o l : Nat) :
    (appendSeg s m k v o l).rdata = s.rdata :=
  rfl

/-! ## `textSegment` -/

@[simp] theorem textSegment_cfg (s : State) (m k : Nat) (v : Word) (bs : List Byte) (n : Nat) :
    (textSegment s m k v bs n).cfg = s.cfg :=
  rfl
@[simp] theorem textSegment_st (s : State) (m k : Nat) (v : Word) (bs : List Byte) (n : Nat) :
    (textSegment s m k v bs n).st = s.st :=
  rfl
@[simp] theorem textSegment_stage (s : State) (m k : Nat) (v : Word) (bs : List Byte) (n : Nat) :
    (textSegment s m k v bs n).stage = s.stage :=
  rfl
@[simp] theorem textSegment_pass (s : State) (m k : Nat) (v : Word) (bs : List Byte) (n : Nat) :
    (textSegment s m k v bs n).pass = s.pass :=
  rfl
@[simp] theorem textSegment_hosterr (s : State) (m k : Nat) (v : Word) (bs : List Byte) (n : Nat) :
    (textSegment s m k v bs n).hosterr = s.hosterr :=
  rfl
@[simp] theorem textSegment_candOvf (s : State) (m k : Nat) (v : Word) (bs : List Byte) (n : Nat) :
    (textSegment s m k v bs n).candOvf = s.candOvf :=
  rfl
@[simp] theorem textSegment_cause (s : State) (m k : Nat) (v : Word) (bs : List Byte) (n : Nat) :
    (textSegment s m k v bs n).cause = s.cause :=
  rfl
@[simp] theorem textSegment_imgWidth (s : State) (m k : Nat) (v : Word) (bs : List Byte) (n : Nat) :
    (textSegment s m k v bs n).imgWidth = s.imgWidth :=
  rfl
@[simp] theorem textSegment_imgHeight (s : State) (m k : Nat) (v : Word) (bs : List Byte) (n : Nat) :
    (textSegment s m k v bs n).imgHeight = s.imgHeight :=
  rfl
@[simp] theorem textSegment_hints (s : State) (m k : Nat) (v : Word) (bs : List Byte) (n : Nat) :
    (textSegment s m k v bs n).hints = s.hints :=
  rfl
@[simp] theorem textSegment_irqEn (s : State) (m k : Nat) (v : Word) (bs : List Byte) (n : Nat) :
    (textSegment s m k v bs n).irqEn = s.irqEn :=
  rfl
@[simp] theorem textSegment_irqPend (s : State) (m k : Nat) (v : Word) (bs : List Byte) (n : Nat) :
    (textSegment s m k v bs n).irqPend = s.irqPend :=
  rfl
@[simp] theorem textSegment_arg0 (s : State) (m k : Nat) (v : Word) (bs : List Byte) (n : Nat) :
    (textSegment s m k v bs n).arg0 = s.arg0 :=
  rfl
@[simp] theorem textSegment_arg1 (s : State) (m k : Nat) (v : Word) (bs : List Byte) (n : Nat) :
    (textSegment s m k v bs n).arg1 = s.arg1 :=
  rfl
@[simp] theorem textSegment_res (s : State) (m k : Nat) (v : Word) (bs : List Byte) (n : Nat) :
    (textSegment s m k v bs n).res = s.res :=
  rfl
@[simp] theorem textSegment_cmd (s : State) (m k : Nat) (v : Word) (bs : List Byte) (n : Nat) :
    (textSegment s m k v bs n).cmd = s.cmd :=
  rfl
@[simp] theorem textSegment_exc0 (s : State) (m k : Nat) (v : Word) (bs : List Byte) (n : Nat) :
    (textSegment s m k v bs n).exc0 = s.exc0 :=
  rfl
@[simp] theorem textSegment_binPath (s : State) (m k : Nat) (v : Word) (bs : List Byte) (n : Nat) :
    (textSegment s m k v bs n).binPath = s.binPath :=
  rfl
@[simp] theorem textSegment_det (s : State) (m k : Nat) (v : Word) (bs : List Byte) (n : Nat) :
    (textSegment s m k v bs n).det = s.det :=
  rfl
@[simp] theorem textSegment_sym (s : State) (m k : Nat) (v : Word) (bs : List Byte) (n : Nat) :
    (textSegment s m k v bs n).sym = s.sym :=
  rfl
@[simp] theorem textSegment_ec (s : State) (m k : Nat) (v : Word) (bs : List Byte) (n : Nat) :
    (textSegment s m k v bs n).ec = s.ec :=
  rfl
@[simp] theorem textSegment_bits (s : State) (m k : Nat) (v : Word) (bs : List Byte) (n : Nat) :
    (textSegment s m k v bs n).bits = { s.bits with tlen := s.bits.tlen + bs.length, nseg := s.bits.nseg + 1, bitpos := s.bits.bitpos + BitVec.ofNat 15 n } :=
  rfl
@[simp] theorem textSegment_mem (s : State) (m k : Nat) (v : Word) (bs : List Byte) (n : Nat) :
    (textSegment s m k v bs n).mem = storeBytes s.cfg (storeBytes s.cfg s.mem .text s.bits.tlen bs) .seg (16 * s.bits.nseg) (segEntry m k v s.bits.tlen bs.length) :=
  rfl
@[simp] theorem textSegment_host (s : State) (m k : Nat) (v : Word) (bs : List Byte) (n : Nat) :
    (textSegment s m k v bs n).host = s.host :=
  rfl
@[simp] theorem textSegment_rdata (s : State) (m k : Nat) (v : Word) (bs : List Byte) (n : Nat) :
    (textSegment s m k v bs n).rdata = s.rdata :=
  rfl

/-! ## `bareSegment` -/

@[simp] theorem bareSegment_cfg (s : State) (m : Nat) (v : Word) (n : Nat) : (bareSegment s m v n).cfg = s.cfg := rfl
@[simp] theorem bareSegment_st (s : State) (m : Nat) (v : Word) (n : Nat) : (bareSegment s m v n).st = s.st := rfl
@[simp] theorem bareSegment_stage (s : State) (m : Nat) (v : Word) (n : Nat) :
    (bareSegment s m v n).stage = s.stage :=
  rfl
@[simp] theorem bareSegment_pass (s : State) (m : Nat) (v : Word) (n : Nat) :
    (bareSegment s m v n).pass = s.pass :=
  rfl
@[simp] theorem bareSegment_hosterr (s : State) (m : Nat) (v : Word) (n : Nat) :
    (bareSegment s m v n).hosterr = s.hosterr :=
  rfl
@[simp] theorem bareSegment_candOvf (s : State) (m : Nat) (v : Word) (n : Nat) :
    (bareSegment s m v n).candOvf = s.candOvf :=
  rfl
@[simp] theorem bareSegment_cause (s : State) (m : Nat) (v : Word) (n : Nat) :
    (bareSegment s m v n).cause = s.cause :=
  rfl
@[simp] theorem bareSegment_imgWidth (s : State) (m : Nat) (v : Word) (n : Nat) :
    (bareSegment s m v n).imgWidth = s.imgWidth :=
  rfl
@[simp] theorem bareSegment_imgHeight (s : State) (m : Nat) (v : Word) (n : Nat) :
    (bareSegment s m v n).imgHeight = s.imgHeight :=
  rfl
@[simp] theorem bareSegment_hints (s : State) (m : Nat) (v : Word) (n : Nat) :
    (bareSegment s m v n).hints = s.hints :=
  rfl
@[simp] theorem bareSegment_irqEn (s : State) (m : Nat) (v : Word) (n : Nat) :
    (bareSegment s m v n).irqEn = s.irqEn :=
  rfl
@[simp] theorem bareSegment_irqPend (s : State) (m : Nat) (v : Word) (n : Nat) :
    (bareSegment s m v n).irqPend = s.irqPend :=
  rfl
@[simp] theorem bareSegment_arg0 (s : State) (m : Nat) (v : Word) (n : Nat) :
    (bareSegment s m v n).arg0 = s.arg0 :=
  rfl
@[simp] theorem bareSegment_arg1 (s : State) (m : Nat) (v : Word) (n : Nat) :
    (bareSegment s m v n).arg1 = s.arg1 :=
  rfl
@[simp] theorem bareSegment_res (s : State) (m : Nat) (v : Word) (n : Nat) : (bareSegment s m v n).res = s.res := rfl
@[simp] theorem bareSegment_cmd (s : State) (m : Nat) (v : Word) (n : Nat) : (bareSegment s m v n).cmd = s.cmd := rfl
@[simp] theorem bareSegment_exc0 (s : State) (m : Nat) (v : Word) (n : Nat) :
    (bareSegment s m v n).exc0 = s.exc0 :=
  rfl
@[simp] theorem bareSegment_binPath (s : State) (m : Nat) (v : Word) (n : Nat) :
    (bareSegment s m v n).binPath = s.binPath :=
  rfl
@[simp] theorem bareSegment_det (s : State) (m : Nat) (v : Word) (n : Nat) : (bareSegment s m v n).det = s.det := rfl
@[simp] theorem bareSegment_sym (s : State) (m : Nat) (v : Word) (n : Nat) : (bareSegment s m v n).sym = s.sym := rfl
@[simp] theorem bareSegment_ec (s : State) (m : Nat) (v : Word) (n : Nat) : (bareSegment s m v n).ec = s.ec := rfl
@[simp] theorem bareSegment_bits (s : State) (m : Nat) (v : Word) (n : Nat) :
    (bareSegment s m v n).bits = { s.bits with nseg := s.bits.nseg + 1, bitpos := s.bits.bitpos + BitVec.ofNat 15 n } :=
  rfl
@[simp] theorem bareSegment_mem (s : State) (m : Nat) (v : Word) (n : Nat) :
    (bareSegment s m v n).mem = storeBytes s.cfg s.mem .seg (16 * s.bits.nseg) (segEntry m csDefault v s.bits.tlen 0) :=
  rfl
@[simp] theorem bareSegment_host (s : State) (m : Nat) (v : Word) (n : Nat) :
    (bareSegment s m v n).host = s.host :=
  rfl
@[simp] theorem bareSegment_rdata (s : State) (m : Nat) (v : Word) (n : Nat) :
    (bareSegment s m v n).rdata = s.rdata :=
  rfl

@[simp] theorem enterBits_running (s : State) : (enterBits s).bits.running = true := rfl
@[simp] theorem enterBits_bitpos (s : State) : (enterBits s).bits.bitpos = 0 := rfl
@[simp] theorem enterBits_tlen (s : State) : (enterBits s).bits.tlen = 0 := rfl
@[simp] theorem enterBits_ver (s : State) : (enterBits s).bits.ver = streamVersion s := rfl
@[simp] theorem enterBits_ndata (s : State) : (enterBits s).bits.ndata = dataLength s := rfl
@[simp] theorem enterBits_nseg (s : State) : (enterBits s).bits.nseg = 0 := rfl

end Sys2Proof.Laws
end

