-- ==== Sys2Proof/Laws/Ops.lean ====
section
/-!
SUPPORT. For each shared operation one lemma that says once what it can do, in the terms of Safety.lean. Proofs about
instructions cite these and unfold none of the operations.
-/

namespace Sys2Proof.Laws

open Sys2Proof Sys2Proof.Machine

/-! ## Legal operands -/

/-- The hint check of the machine is the one of R33. -/
theorem hintsInvalid_eq_false_iff (h : Word) : hintsInvalid h = false ↔ HintsLegal h := by
  unfold hintsInvalid HintsLegal hintFormatsValid hintFormatsQr hintCharsetValid
  cases h.getLsbD 3 <;> cases h.getLsbD 4 <;> cases h.getLsbD 2 <;> simp

/-- What the argument check of PARSEBITS asks of `ARG1` (R34). -/
theorem parsebits_arg1_iff (a : Word) :
    (a.extractLsb' 10 22 = 0 ∧ 1 ≤ (a.extractLsb' 0 8).toNat ∧ (a.extractLsb' 0 8).toNat ≤ 40) ↔
      (a.toNat < 1024 ∧ 1 ≤ a.toNat % 256 ∧ a.toNat % 256 ≤ 40) := by
  have h0 : (a.extractLsb' 0 8).toNat = a.toNat % 256 := by simp [BitVec.extractLsb'_toNat]
  have h1 : a.extractLsb' 10 22 = 0 ↔ a.toNat < 1024 := by
    rw [← BitVec.toNat_inj, BitVec.extractLsb'_toNat, Nat.shiftRight_eq_div_pow]
    have := a.isLt
    constructor
    · intro h
      rw [Nat.mod_eq_of_lt (by omega)] at h
      simp at h
      omega
    · intro h
      rw [Nat.mod_eq_of_lt (by omega)]
      simp
      omega
  rw [h0, h1]

/-! ## Windows -/

/-- Clearing regions zeroes exactly their windows. -/
theorem zeroedWindows_of_clear (s t : State) (rs : List Region) (h : t.mem = clearRegions s.cfg s.mem rs) :
    zeroedWindows s t rs := by
  intro a
  rw [h, memRead_clearRegions]

/-- Clearing regions twice is clearing them once. -/
theorem zeroedWindows_of_clear_twice (s t : State) (rs : List Region)
    (h : t.mem = clearRegions s.cfg (clearRegions s.cfg s.mem rs) rs) : zeroedWindows s t rs := by
  intro a
  rw [h, memRead_clearRegions, memRead_clearRegions]
  split <;> rfl

/-! ## Taking an exception -/

/-- When the mirror edge is taken (R476). -/
theorem takesMirror_iff (s : State) (e : Exc) :
    takesMirror s e = true ↔
      (s.cmd = .decode ∨ s.cmd = .decodesym) ∧ s.pass = false ∧ (excKind e = .format ∨ excKind e = .checksum) ∧
        (excStage e = .parse ∨ excStage e = .readcw ∨ excStage e = .ec ∨ excStage e = .bits) := by
  have : inDecoder (excStage e) = true ↔
      (excStage e = .parse ∨ excStage e = .readcw ∨ excStage e = .ec ∨ excStage e = .bits) := by
    cases excStage e <;> simp [inDecoder]
  simp [takesMirror, this, and_assoc]

/-- What the end of a command by exception does (R478, R510). -/
theorem endWithExc_endsWith (s : State) (e : Exc) :
    EndsWith s (endWithExc s e) (if s.pass then s.exc0.getD e else e) s.pass s.candOvf (outputs s.cmd) :=
  ⟨rfl, zeroedWindows_of_clear _ _ _ rfl⟩

/-- What the mirror edge does (R476). -/
theorem mirrorEdge_mirrors (s : State) (e : Exc) : Mirrors s (mirrorEdge s e) e :=
  ⟨rfl, zeroedWindows_of_clear _ _ _ rfl⟩

/-- Either the mirror edge or the end of the command. -/
theorem raise_cases (s : State) (e : Exc) :
    takesMirror s e = true ∧ raise s e = mirrorEdge s e ∨
      takesMirror s e = false ∧ raise s e = endWithExc s e := by
  unfold raise
  cases takesMirror s e <;> simp

/-! ## Issue and acceptance -/

/-- A command issued while BUSY (R470). -/
theorem issue_of_busy (s t : State) (h : s.st = .busy) : issue s t = setHosterr s := by simp [issue, h]

/-- A command issued in any other state. -/
theorem issue_of_not_busy (s t : State) (h : s.st ≠ .busy) : issue s t = t := by simp [issue, h]

/-- Acceptance where the checks pass (R471, R472). -/
theorem accept_acceptedAs (s : State) (c : Command) (h : acceptCheck c s = none) :
    AcceptedAs s (accept s c) c (firstStage c) (outputs c) := by
  unfold accept
  rw [h]
  exact ⟨rfl, zeroedWindows_of_clear _ _ _ rfl⟩

/-- Acceptance where a check fails (R473). -/
theorem accept_endsWith (s : State) (c : Command) (e : Exc) (h : acceptCheck c s = some e) :
    EndsWith s (accept s c) e false false (outputs c) := by
  unfold accept
  rw [h]
  exact ⟨rfl, zeroedWindows_of_clear_twice _ _ _ rfl⟩

/-! ## The host port -/

/-- A host read changes at most `HOSTERR` and the word returned (R84: the memories are unchanged). -/
theorem hostRead_frame (s : State) (a : Word) (n : Width) :
    hostRead s a n = { s with hosterr := (hostRead s a n).hosterr, rdata := (hostRead s a n).rdata } := by
  unfold hostRead
  dsimp only
  split
  · rfl
  · split
    · rfl
    · split
      · rfl
      · split <;> rfl
    · split <;> rfl

/-- What a host write can change: `HOSTERR`, the operand and interrupt registers, the memory. -/
theorem hostWrite_frame (s : State) (a : Word) (n : Width) (v : Word) :
    let t := hostWrite s a n v
    t = { s with
          hosterr := t.hosterr, imgWidth := t.imgWidth, imgHeight := t.imgHeight, hints := t.hints, irqEn := t.irqEn
          irqPend := t.irqPend, arg0 := t.arg0, arg1 := t.arg1, mem := t.mem } := by
  have hw : ∀ r, writeReg s r v =
      { s with
        hosterr := (writeReg s r v).hosterr, imgWidth := (writeReg s r v).imgWidth
        imgHeight := (writeReg s r v).imgHeight, hints := (writeReg s r v).hints, irqEn := (writeReg s r v).irqEn
        irqPend := (writeReg s r v).irqPend, arg0 := (writeReg s r v).arg0, arg1 := (writeReg s r v).arg1
        mem := (writeReg s r v).mem } := by
    intro r
    unfold writeReg writeOperand
    cases r <;> (try rfl) <;> (dsimp only; split <;> rfl)
  unfold hostWrite
  dsimp only
  split
  · rfl
  · split
    · rfl
    · split
      · rfl
      · split
        · rfl
        · exact hw _
    · split
      · rfl
      · split <;> rfl

/-! ## Appending to TEXT and SEG -/

@[simp] theorem segEntry_length (m k : Nat) (v : Word) (o n : Nat) : (segEntry m k v o n).length = 16 := rfl

/-- The memory of an appending instruction: its text, then its entry, nothing else. -/
theorem memRead_append (cfg : Config) (m : List Host.Cell) (bs : List Byte) (e : List Byte) (tlen nseg : Nat) (h : memWf m = true)
    (ht : tlen + bs.length ≤ 8192) (hn : nseg < 5912) (he : e.length = 16) (a : Nat) :
    memRead (storeBytes cfg (storeBytes cfg m .text tlen bs) .seg (16 * nseg) e) a =
      if regionBase cfg .text + tlen ≤ a ∧ a < regionBase cfg .text + tlen + bs.length then
        bs.getD (a - (regionBase cfg .text + tlen)) 0
      else if regionBase cfg .seg + 16 * nseg ≤ a ∧ a < regionBase cfg .seg + 16 * nseg + 16 then
        e.getD (a - (regionBase cfg .seg + 16 * nseg)) 0
      else memRead m a := by
  have hb : regionBase cfg .text = cfg.base + 0x03006000 := rfl
  have hs : regionBase cfg .seg = cfg.base + 0x03010000 := rfl
  have hcb : regionCapacity cfg .text = 8192 := rfl
  have hcs : regionCapacity cfg .seg = 94592 := rfl
  rw [memRead_storeBytes _ _ _ _ _ _ (memWf_storeBytes _ _ _ _ _ h), memRead_storeBytes _ _ _ _ _ _ h, hb, hs, hcb, hcs, he]
  by_cases h1 : cfg.base + 0x03006000 + tlen ≤ a ∧ a < cfg.base + 0x03006000 + tlen + bs.length
  · rw [if_neg (by omega), if_pos (by omega), if_pos h1]
  · rw [if_neg h1]
    by_cases h2 : cfg.base + 0x03010000 + 16 * nseg ≤ a ∧ a < cfg.base + 0x03010000 + 16 * nseg + 16
    · rw [if_pos (by omega), if_pos h2]
    · rw [if_neg (by omega), if_neg (by omega), if_neg h2]

/-- What an instruction that appends text and an entry does (R424). -/
theorem textSegment_appendsTo (s : State) (mode cskind : Nat) (value : Word) (bs : List Byte) (n : Nat)
    (h : memWf s.mem = true) (hr : roomFor s bs.length) :
    AppendsTo s (textSegment s mode cskind value bs n) (cursorPast s.bits n bs.length) mode cskind value bs := by
  have hm := memRead_append s.cfg s.mem bs (segEntry mode cskind value s.bits.tlen bs.length) s.bits.tlen s.bits.nseg h hr.1
    hr.2 rfl
  have hb : regionBase s.cfg .text = s.cfg.base + 0x03006000 := rfl
  have hs : regionBase s.cfg .seg = s.cfg.base + 0x03010000 := rfl
  have h1 := hr.1
  refine ⟨rfl, ?_, ?_, ?_⟩
  · intro k hk
    refine (hm _).trans ?_
    rw [if_pos (by omega)]
    congr 1
    omega
  · intro k hk
    have hk' : k < 16 := hk
    refine (hm _).trans ?_
    rw [textSegment_cfg, if_neg (by omega), if_pos (by omega), show regionBase s.cfg .seg + 16 * s.bits.nseg + k -
      (regionBase s.cfg .seg + 16 * s.bits.nseg) = k by omega, segEntry, Nat.mul_comm cskind 16]
  · intro a ha
    refine (hm _).trans ?_
    simp only [appendPlaces, Bool.or_eq_false_iff, Bool.and_eq_false_iff, decide_eq_false_iff_not] at ha
    rw [if_neg (by omega), if_neg (by omega)]

/-- What an instruction that appends only an entry does (R424): `s` the state before it, `b` its bit-stream state
where that instruction has written its own fields. -/
theorem bareSegment_appendsTo (s : State) (b : BitsState) (mode : Nat) (value : Word) (n : Nat)
    (hb : b.tlen = s.bits.tlen) (hn : b.nseg = s.bits.nseg) (h : memWf s.mem = true) (hr : roomFor s 0) :
    AppendsTo s (bareSegment { s with bits := b } mode value n) (cursorPast b n 0) mode csDefault value [] := by
  have hm := memRead_append s.cfg s.mem [] (segEntry mode csDefault value s.bits.tlen 0) s.bits.tlen s.bits.nseg h hr.1
    hr.2 rfl
  have hbase : regionBase s.cfg .text = s.cfg.base + 0x03006000 := rfl
  have hs : regionBase s.cfg .seg = s.cfg.base + 0x03010000 := rfl
  have hmem : (bareSegment { s with bits := b } mode value n).mem =
      storeBytes s.cfg (storeBytes s.cfg s.mem .text s.bits.tlen []) .seg (16 * s.bits.nseg)
        (segEntry mode csDefault value s.bits.tlen 0) := by
    simp only [bareSegment, advance, appendSeg, hb, hn, storeBytes]
  have hc : (bareSegment { s with bits := b } mode value n).cfg = s.cfg := rfl
  have h1 := hr.1
  refine ⟨rfl, ?_, ?_, ?_⟩
  · intro k hk
    exact absurd hk (by simp)
  · intro k hk
    have hk' : k < 16 := hk
    rw [hmem]
    refine (hm _).trans ?_
    rw [hc, if_neg (by simp), if_pos (by omega), show regionBase s.cfg .seg + 16 * s.bits.nseg + k -
      (regionBase s.cfg .seg + 16 * s.bits.nseg) = k by omega]
    rfl
  · intro a ha
    rw [hmem]
    refine (hm _).trans ?_
    simp only [appendPlaces, Bool.or_eq_false_iff, Bool.and_eq_false_iff, decide_eq_false_iff_not] at ha
    rw [if_neg (by simp), if_neg (by omega)]

/-! ## Lengths of the text -/

/-- NUMERIC appends as many bytes as it has digits. -/
theorem numericText_length : ∀ (c : Nat) (gs : List Nat) (bs : List Byte), numericText c gs = .ok bs → bs.length = c
  | 0, gs, bs, h => by
    simp only [numericText, Except.ok.injEq] at h
    rw [← h]
    rfl
  | 1, [], bs, h => by simp [numericText] at h
  | 1, x :: xs, bs, h => by
    simp only [numericText] at h
    split at h
    · cases h
    · cases h
      rfl
  | 2, [], bs, h => by simp [numericText] at h
  | 2, x :: xs, bs, h => by
    simp only [numericText] at h
    split at h
    · cases h
    · cases h
      rfl
  | c + 3, [], bs, h => by simp [numericText] at h
  | c + 3, x :: xs, bs, h => by
    simp only [numericText] at h
    split at h
    · cases h
    · cases hr : numericText c xs with
      | error e =>
        rw [hr] at h
        cases h
      | ok t =>
        rw [hr] at h
        cases h
        simp [numericText_length c xs t hr]

/-- ALPHANUMERIC appends as many bytes as it has symbols. -/
theorem alnumText_length : ∀ (c : Nat) (gs : List Nat) (bs : List Byte), alnumText c gs = .ok bs → bs.length = c
  | 0, gs, bs, h => by
    simp only [alnumText, Except.ok.injEq] at h
    rw [← h]
    rfl
  | 1, [], bs, h => by simp [alnumText] at h
  | 1, x :: xs, bs, h => by
    simp only [alnumText] at h
    split at h
    · cases h
    · cases h
      rfl
  | c + 2, [], bs, h => by simp [alnumText] at h
  | c + 2, x :: xs, bs, h => by
    simp only [alnumText] at h
    split at h
    · cases h
    · cases hr : alnumText c xs with
      | error e =>
        rw [hr] at h
        cases h
      | ok t =>
        rw [hr] at h
        cases h
        simp [alnumText_length c xs t hr]

@[simp] theorem kanjiText_length (ks : List (BitVec 13)) : (kanjiText ks).length = 2 * ks.length := by
  induction ks with
  | nil => rfl
  | cons k ks ih =>
    have : kanjiText (k :: ks) = codeBytes (kanjiCode k.toNat) ++ kanjiText ks := rfl
    rw [this, List.length_append, ih, List.length_cons]
    simp only [codeBytes, List.length_cons, List.length_nil]
    omega

@[simp] theorem hanziText_length (ks : List (BitVec 13)) : (hanziText ks).length = 2 * ks.length := by
  induction ks with
  | nil => rfl
  | cons k ks ih =>
    have : hanziText (k :: ks) = codeBytes (hanziCode k.toNat) ++ hanziText ks := rfl
    rw [this, List.length_append, ih, List.length_cons]
    simp only [codeBytes, List.length_cons, List.length_nil]
    omega

/-! ## The engine's turn -/

/-- On the engine's turn the step is the engine's. -/
theorem step_of_engineTurn (s u : State) (h : EngineTurn s u) : step s = engineStep u := by
  obtain ⟨hr, ⟨hh, rfl⟩ | ⟨rest, hh, rfl⟩⟩ := h <;> simp [step, hr, hh]

/-- The dimension the statements name is the machine's. -/
theorem symDim_eq (s : State) : symDim s = dimInHand s := rfl

/-- The image the statements see is the one the machine reads (R41, R47, R87). -/
theorem imgAt_eq (s : State) (x y : Nat) : imgAt s x y = imageSeen s x y := by
  have hd : 4 * (x / 32) + x % 32 / 8 = x / 8 := by omega
  unfold imgAt imageSeen matrixBit regionByte rowWords
  rw [← hd]; simp only [regionBase, Nat.mul_add, Nat.add_assoc]

/-- The symbol the statements see is the one the machine reads (R47, R87, R330). -/
theorem moduleAt_eq (s : State) (x y : Nat) : moduleAt s x y = symbolSeen s x y := by
  have hd : ∀ x : Nat, 4 * (x / 32) + x % 32 / 8 = x / 8 := by intro x; omega
  unfold moduleAt symbolSeen matrixBit regionByte rowWords
  rw [symDim_eq]
  split
  · rw [← hd y]; simp only [regionBase, Nat.mul_add, Nat.add_assoc]
  · rw [← hd x]; simp only [regionBase, Nat.mul_add, Nat.add_assoc]

/-! ## Fetch -/

/-- An instruction at the cursor has its mode indicator within the data. -/
theorem decodeSegment_room (t : Tier) (bit : Nat → Bool) (stop pos : Nat) (i : Instr)
    (h : decodeSegment t bit stop pos = .ok i) : pos + 4 ≤ stop := by
  unfold decodeSegment at h
  split at h
  · cases h
  · omega

/-- The stage BITS: an instruction decodes at the cursor, the data ends there, or it is truncated. -/
theorem segmentStep_cases (s : State) :
    (∃ i, fetchSegment s = .ok i ∧ segmentStep s = exec i s) ∨
      fetchSegment s = .error .endOfStream ∧ segmentStep s = .next (finishBits s) ∨
      fetchSegment s = .error .truncated ∧ segmentStep s = .next (raise s .feTruncated) := by
  unfold segmentStep
  cases h : fetchSegment s with
  | ok i => exact .inl ⟨i, rfl, rfl⟩
  | error r => cases r <;> simp [noSegment]

end Sys2Proof.Laws
end

