-- ==== Sys2Proof/Laws/PerInstr.lean ====
section
/-!
SUPPORT. The family of statements made instruction by instruction: the length of the encoding (`30_encoding.md` R120,
R144). A command has no bits in the stream; a segment takes at least its mode indicator, at most the length by which its
execution advances the bit cursor (less where reading stops at an illegal group or subset).
-/

open Sys2Proof

/-! ## Lengths of the parts -/

@[simp] theorem Sys2Proof.Laws.fieldBits_length (n v : Nat) : (fieldBits n v).length = n := by simp [fieldBits]

theorem Sys2Proof.Laws.numGroupBits_length_le (c : Nat) (gs : List Nat) :
    (numGroupBits c gs).length ≤ payloadBits .numeric c := by
  induction c, gs using numGroupBits.induct <;>
    simp_all [numGroupBits, payloadBits, Nat.add_div_right, show ∀ n : Nat, n + 2 + 1 = n + 3 from fun _ => rfl]
  omega

theorem Sys2Proof.Laws.alnumGroupBits_length_le (c : Nat) (gs : List Nat) :
    (alnumGroupBits c gs).length ≤ payloadBits .alphanumeric c := by
  induction c, gs using alnumGroupBits.induct <;> simp_all [alnumGroupBits, payloadBits]
  omega

theorem Sys2Proof.Laws.flatMap_fieldBits_length {w : Nat} (n : Nat) (l : List (BitVec w)) :
    (l.flatMap fun x => fieldBits n x.toNat).length = n * l.length := by
  induction l with
  | nil => simp
  | cons a l ih =>
    rw [List.flatMap_cons, List.length_append, ih, List.length_cons, Sys2Proof.Laws.fieldBits_length, Nat.mul_succ]
    omega

@[simp] theorem Sys2Proof.Laws.eciDesignatorBits_length (d : EciDesignator) :
    (eciDesignatorBits d).length = eciBits d := by
  cases d <;> simp [eciDesignatorBits, eciBits]

/-! ## The statement and its lemma for each instruction -/

/-- The length of the encoding of a well-formed instruction at any tier. -/
def Sys2Proof.Laws.EncodedLength.Statement (i : Instr) : Prop :=
  ∀ t : Tier, i.wf t = true →
    match encode t i with
    | .word _ => segmentLength t i = 0
    | .bits b => 4 ≤ b.length ∧ b.length ≤ segmentLength t i

theorem Sys2Proof.Laws.EncodedLength.nop : Sys2Proof.Laws.EncodedLength.Statement .nop := fun _ _ => rfl

theorem Sys2Proof.Laws.EncodedLength.decode : Sys2Proof.Laws.EncodedLength.Statement .decode := fun _ _ => rfl

theorem Sys2Proof.Laws.EncodedLength.binarize : Sys2Proof.Laws.EncodedLength.Statement .binarize := fun _ _ => rfl

theorem Sys2Proof.Laws.EncodedLength.detect : Sys2Proof.Laws.EncodedLength.Statement .detect := fun _ _ => rfl

theorem Sys2Proof.Laws.EncodedLength.decodesym : Sys2Proof.Laws.EncodedLength.Statement .decodesym := fun _ _ => rfl

theorem Sys2Proof.Laws.EncodedLength.rsdecode : Sys2Proof.Laws.EncodedLength.Statement .rsdecode := fun _ _ => rfl

theorem Sys2Proof.Laws.EncodedLength.parsebits : Sys2Proof.Laws.EncodedLength.Statement .parsebits := fun _ _ => rfl

theorem Sys2Proof.Laws.EncodedLength.clear : Sys2Proof.Laws.EncodedLength.Statement .clear := fun _ _ => rfl

theorem Sys2Proof.Laws.EncodedLength.reservedCmd8 : Sys2Proof.Laws.EncodedLength.Statement .reservedCmd8 := fun _ _ => rfl

theorem Sys2Proof.Laws.EncodedLength.reservedCmd9 : Sys2Proof.Laws.EncodedLength.Statement .reservedCmd9 := fun _ _ => rfl

theorem Sys2Proof.Laws.EncodedLength.reservedCmdA : Sys2Proof.Laws.EncodedLength.Statement .reservedCmdA := fun _ _ => rfl

theorem Sys2Proof.Laws.EncodedLength.reservedCmdB : Sys2Proof.Laws.EncodedLength.Statement .reservedCmdB := fun _ _ => rfl

theorem Sys2Proof.Laws.EncodedLength.reservedCmdC : Sys2Proof.Laws.EncodedLength.Statement .reservedCmdC := fun _ _ => rfl

theorem Sys2Proof.Laws.EncodedLength.reservedCmdD : Sys2Proof.Laws.EncodedLength.Statement .reservedCmdD := fun _ _ => rfl

theorem Sys2Proof.Laws.EncodedLength.reservedCmdE : Sys2Proof.Laws.EncodedLength.Statement .reservedCmdE := fun _ _ => rfl

theorem Sys2Proof.Laws.EncodedLength.reservedCmdF : Sys2Proof.Laws.EncodedLength.Statement .reservedCmdF := fun _ _ => rfl

theorem Sys2Proof.Laws.EncodedLength.reservedCmdNonzeroUpper (op : BitVec 4) (upper : BitVec 28) :
    Sys2Proof.Laws.EncodedLength.Statement (.reservedCmdNonzeroUpper op upper) := fun _ _ => rfl

theorem Sys2Proof.Laws.EncodedLength.terminator : Sys2Proof.Laws.EncodedLength.Statement .terminator := fun _ _ => by
  simp [encode, segmentLength]

theorem Sys2Proof.Laws.EncodedLength.fnc1First : Sys2Proof.Laws.EncodedLength.Statement .fnc1First := fun _ _ => by
  simp [encode, segmentLength]

theorem Sys2Proof.Laws.EncodedLength.reservedMode6 : Sys2Proof.Laws.EncodedLength.Statement .reservedMode6 := fun _ _ => by
  simp [encode, segmentLength]

theorem Sys2Proof.Laws.EncodedLength.reservedModeA : Sys2Proof.Laws.EncodedLength.Statement .reservedModeA := fun _ _ => by
  simp [encode, segmentLength]

theorem Sys2Proof.Laws.EncodedLength.reservedModeB : Sys2Proof.Laws.EncodedLength.Statement .reservedModeB := fun _ _ => by
  simp [encode, segmentLength]

theorem Sys2Proof.Laws.EncodedLength.reservedModeC : Sys2Proof.Laws.EncodedLength.Statement .reservedModeC := fun _ _ => by
  simp [encode, segmentLength]

theorem Sys2Proof.Laws.EncodedLength.reservedModeE : Sys2Proof.Laws.EncodedLength.Statement .reservedModeE := fun _ _ => by
  simp [encode, segmentLength]

theorem Sys2Proof.Laws.EncodedLength.reservedModeF : Sys2Proof.Laws.EncodedLength.Statement .reservedModeF := fun _ _ => by
  simp [encode, segmentLength]

theorem Sys2Proof.Laws.EncodedLength.numeric (c : Nat) (gs : List Nat) :
    Sys2Proof.Laws.EncodedLength.Statement (.numeric c gs) := fun t _ => by
  have h := Sys2Proof.Laws.numGroupBits_length_le c gs
  simp only [encode, segmentLength, List.length_append, Sys2Proof.Laws.fieldBits_length]
  omega

theorem Sys2Proof.Laws.EncodedLength.alphanumeric (c : Nat) (gs : List Nat) :
    Sys2Proof.Laws.EncodedLength.Statement (.alphanumeric c gs) := fun t _ => by
  have h := Sys2Proof.Laws.alnumGroupBits_length_le c gs
  simp only [encode, segmentLength, List.length_append, Sys2Proof.Laws.fieldBits_length]
  omega

theorem Sys2Proof.Laws.EncodedLength.structuredAppend (q r : BitVec 8) :
    Sys2Proof.Laws.EncodedLength.Statement (.structuredAppend q r) := fun _ _ => by
  simp [encode, segmentLength]

theorem Sys2Proof.Laws.EncodedLength.byte (p : List (BitVec 8)) :
    Sys2Proof.Laws.EncodedLength.Statement (.byte p) := fun t _ => by
  have h := Sys2Proof.Laws.flatMap_fieldBits_length 8 p
  simp only [encode, segmentLength, payloadBits, List.length_append, Sys2Proof.Laws.fieldBits_length, h]
  omega

theorem Sys2Proof.Laws.EncodedLength.eci (d : EciDesignator) :
    Sys2Proof.Laws.EncodedLength.Statement (.eci d) := fun _ _ => by
  simp [encode, segmentLength]

theorem Sys2Proof.Laws.EncodedLength.kanji (k : List (BitVec 13)) :
    Sys2Proof.Laws.EncodedLength.Statement (.kanji k) := fun t _ => by
  have h := Sys2Proof.Laws.flatMap_fieldBits_length 13 k
  simp only [encode, segmentLength, payloadBits, List.length_append, Sys2Proof.Laws.fieldBits_length, h]
  omega

theorem Sys2Proof.Laws.EncodedLength.fnc1Second (a : BitVec 8) :
    Sys2Proof.Laws.EncodedLength.Statement (.fnc1Second a) := fun _ _ => by
  simp [encode, segmentLength]

theorem Sys2Proof.Laws.EncodedLength.hanzi (subset : BitVec 4) (k : List (BitVec 13)) :
    Sys2Proof.Laws.EncodedLength.Statement (.hanzi subset k) := fun t _ => by
  have h := Sys2Proof.Laws.flatMap_fieldBits_length 13 k
  simp only [encode, segmentLength, payloadBits, List.length_append, Sys2Proof.Laws.fieldBits_length]
  split
  · rw [List.length_append, h, Sys2Proof.Laws.fieldBits_length]
    omega
  · simp
    omega
end

