-- ==== Sys2Proof/Tests/Slice0.lean ====
section
/-!
SUPPORT. The model's own tests: ill-formed terms, decoded words, one step per instruction on small states, and for every
statement with hypotheses a state and operands that meet them. Expected values are the spec's (`95_test_vectors.md`, or
worked out by hand from the rule named).
-/

namespace Sys2Proof.Tests

open Sys2Proof Sys2Proof.Machine

set_option Elab.async false

/-! ## Small states -/

/-- The next state of a step, if there is one. -/
def after (o : Host.Outcome State Fault Refusal) : Option State :=
  match o with
  | .next t => some t
  | _ => none

/-- The stream held in bytes, most significant bit first. -/
def stream (bytes : List Nat) (p : Nat) : Bool := (BitVec.ofNat 8 (bytes.getD (p / 8) 0)).getLsbD (7 - p % 8)

/-- The instruction at the start of the bytes. -/
def decodeAt (t : Tier) (bytes : List Nat) : Option Instr :=
  match decodeSegment t (stream bytes) (8 * bytes.length) 0 with
  | .ok i => some i
  | .error _ => none

/-- A PARSEBITS of the given version and hints in its instruction loop, `DATA` loaded. -/
def parse (ver : Nat) (h : Word) (bytes : List Nat) : State :=
  { State.reset with
    st := .busy, stage := .bits, cmd := .parsebits, hints := h
    arg0 := BitVec.ofNat 32 bytes.length, arg1 := BitVec.ofNat 32 ver
    bits := { running := true, ver := ver, ndata := BitVec.ofNat 12 bytes.length }
    mem := storeBytes Config.hw [] .data 0 (bytes.map (BitVec.ofNat 8)) }

/-- The same stage of a DECODESYM of dimension 21, in either pass. -/
def parseSym (pass : Bool) (bytes : List Nat) : State :=
  { parse 1 0 bytes with
    cmd := .decodesym, arg0 := 21, pass := pass, exc0 := if pass then some .feFormatInfo else none
    sym := { ver := 1 }, ec := { ndata := BitVec.ofNat 12 bytes.length } }

/-- The state with a word about to be written to `CMD`. -/
def issuing (s : State) (w : Word) : State := { s with host := [.write 4 .b4 w] }

/-- The frame size and arguments set. -/
def withOperands (w h a0 a1 : Word) : State :=
  { State.reset with imgWidth := w, imgHeight := h, arg0 := a0, arg1 := a1 }

/-- The first `n` bytes of `TEXT`. -/
def text (n : Nat) (t : State) : List Nat := (memLoad t.mem 0x03006000 n).map BitVec.toNat

/-- The four words of an entry of `SEG`. -/
def seg (k : Nat) (t : State) : List Nat :=
  (List.range 4).map fun i => (bytesWord (memLoad t.mem (0x03010000 + 16 * k + 4 * i) 4)).toNat

/-- The text, the first entry and the cursor after one step. -/
def appended (n : Nat) (s : State) : Option (List Nat × List Nat × Nat) :=
  (after (step s)).map fun t => (text n t, seg 0 t, t.bits.bitpos.toNat)

/-- The words of `STATUS` and `CAUSE` after one step. -/
def statusAfter (s : State) : Option (Nat × Nat) :=
  (after (step s)).map fun t => ((statusWord t).toNat, (causeWord t.cause).toNat)

/-! ## Ill-formed terms are refused -/

theorem test_wf_upper_zero : (Instr.reservedCmdNonzeroUpper 3 0).wf .low = false := by decide
theorem test_wf_numeric_count : (Instr.numeric 1024 (List.replicate 342 0)).wf .low = false := by decide +kernel
theorem test_wf_numeric_group_width : (Instr.numeric 1 [16]).wf .low = false := by decide
theorem test_wf_numeric_two_width : (Instr.numeric 2 [128]).wf .low = false := by decide
theorem test_wf_numeric_three_width : (Instr.numeric 3 [1024]).wf .low = false := by decide
theorem test_wf_numeric_missing_group : (Instr.numeric 4 [1]).wf .low = false := by decide
theorem test_wf_numeric_extra_group : (Instr.numeric 0 [1]).wf .low = false := by decide
theorem test_wf_numeric_after_illegal : (Instr.numeric 4 [1000, 1]).wf .low = false := by decide
theorem test_wf_alnum_count : (Instr.alphanumeric 512 (List.replicate 256 0)).wf .low = false := by decide +kernel
theorem test_wf_alnum_group_width : (Instr.alphanumeric 1 [64]).wf .low = false := by decide
theorem test_wf_alnum_two_width : (Instr.alphanumeric 2 [2048]).wf .low = false := by decide
theorem test_wf_alnum_missing_group : (Instr.alphanumeric 3 [1]).wf .low = false := by decide
theorem test_wf_alnum_after_illegal : (Instr.alphanumeric 3 [2025, 1]).wf .low = false := by decide
theorem test_wf_byte_count : (Instr.byte (List.replicate 256 0)).wf .low = false := by decide +kernel
theorem test_wf_kanji_count : (Instr.kanji (List.replicate 256 0)).wf .low = false := by decide +kernel
theorem test_wf_hanzi_count : (Instr.hanzi 1 (List.replicate 256 0)).wf .low = false := by decide +kernel
theorem test_wf_hanzi_subset_codes : (Instr.hanzi 2 [0]).wf .low = false := by decide

/-! ## Words decode to the instructions they stand for -/

/-- R122, R124: every command code. -/
theorem test_decode_commands :
    ([0x0, 0x1, 0x2, 0x3, 0x4, 0x5, 0x6, 0x7, 0x8, 0x9, 0xA, 0xB, 0xC, 0xD, 0xE, 0xF] : List Word).map decodeCommand =
      [.nop, .decode, .binarize, .detect, .decodesym, .rsdecode, .parsebits, .clear, .reservedCmd8, .reservedCmd9,
        .reservedCmdA, .reservedCmdB, .reservedCmdC, .reservedCmdD, .reservedCmdE, .reservedCmdF] := by decide

/-- R124, V8.3: a set upper bit, whatever `OP` is. -/
theorem test_decode_upper :
    decodeCommand 0x00000011 = .reservedCmdNonzeroUpper 1 1 ∧
      decodeCommand 0x80000001 = .reservedCmdNonzeroUpper 1 0x8000000 := by decide

/-- V7.1: `00 EC 11`. -/
theorem test_decode_terminator : decodeAt .low [0x00, 0xEC, 0x11] = some .terminator := by decide
/-- V7.2: `0001 0000001000 0000001100 0101011001 1000011`. -/
theorem test_decode_numeric :
    decodeAt .low [0x10, 0x20, 0x0C, 0x56, 0x61, 0x80] = some (.numeric 8 [12, 345, 67]) := by decide +kernel
/-- V7.38: the widths of version 10 and of version 27. -/
theorem test_decode_numeric_tiers :
    decodeAt .mid [0x10, 0x03, 0x1E, 0xC0] = some (.numeric 3 [123]) ∧
      decodeAt .high [0x10, 0x00, 0xC7, 0xB0] = some (.numeric 3 [123]) := by decide +kernel
/-- V7.10: `0010 000000101 00111001110 11100111001 000010`. -/
theorem test_decode_alphanumeric :
    decodeAt .low [0x20, 0x29, 0xCE, 0xE7, 0x21, 0x00] = some (.alphanumeric 5 [462, 1849, 2]) := by decide +kernel
/-- V7.25: `0011 00010010 10100101`. -/
theorem test_decode_structured_append :
    decodeAt .low [0x31, 0x2A, 0x50] = some (.structuredAppend 0x12 0xA5) := by decide +kernel
/-- V7.14, V7.18: `0100 00000010 01000001 01000010`, and the 16-bit count. -/
theorem test_decode_byte :
    decodeAt .low [0x40, 0x24, 0x14, 0x20] = some (.byte [0x41, 0x42]) ∧
      decodeAt .mid [0x40, 0x00, 0x24, 0x14, 0x20] = some (.byte [0x41, 0x42]) := by decide +kernel
/-- V7.13: `0101`. -/
theorem test_decode_fnc1_first : decodeAt .low [0x52, 0x00, 0xCC] = some .fnc1First := by decide
/-- V7.29, V7.30, V7.32: designators of one, two and three bytes and the illegal form. -/
theorem test_decode_eci :
    decodeAt .low [0x71, 0xA4] = some (.eci (.one 26)) ∧ decodeAt .low [0x78, 0x01, 0xA4] = some (.eci (.two 26)) ∧
      decodeAt .low [0x7C, 0x00, 0x01, 0xA4] = some (.eci (.three 26)) ∧
      decodeAt .low [0x7E, 0x00] = some (.eci (.illegal 0)) := by decide +kernel
/-- V7.19: `1000 00000011 0110110011111 1101010101010 0000000000000`. -/
theorem test_decode_kanji :
    decodeAt .low [0x80, 0x36, 0xCF, 0xEA, 0xA8, 0x00, 0x00] = some (.kanji [0x0D9F, 0x1AAA, 0x0000]) := by decide +kernel
/-- V7.28: `1001 00100101`. -/
theorem test_decode_fnc1_second : decodeAt .low [0x92, 0x50] = some (.fnc1Second 0x25) := by decide +kernel
/-- V7.22, V7.23: subset 1, and subset 2, read no further. -/
theorem test_decode_hanzi :
    decodeAt .low [0xD1, 0x04, 0x00, 0x00, 0xF0, 0x07, 0x7F, 0xFF, 0xF0] =
        some (.hanzi 1 [0x0000, 0x03C0, 0x03BF, 0x1FFF]) ∧
      decodeAt .low [0xD2, 0x01, 0x00, 0x00] = some (.hanzi 2 []) := by decide +kernel
/-- V7.34: `60`, `A0`, `B0`, `C0`, `E0`, `F0`. -/
theorem test_decode_reserved_modes :
    ([[0x60], [0xA0], [0xB0], [0xC0], [0xE0], [0xF0]] : List (List Nat)).map (decodeAt .low) =
      [some .reservedMode6, some .reservedModeA, some .reservedModeB, some .reservedModeC, some .reservedModeE,
        some .reservedModeF] := by decide
/-- V7.9, V7.16: truncated, so no instruction. -/
theorem test_decode_truncated :
    decodeAt .low [0x10, 0x18, 0x7B] = none ∧ decodeAt .low [0x40, 0x34, 0x14, 0x20] = none := by decide +kernel
/-- The table's numbering: `MODE` as a value in bits 3:0. -/
theorem test_table_words :
    decodeTableWord 32 5 = some .rsdecode ∧ decodeTableWord 8 0x4 = some (.byte []) ∧
      decodeTableWord 8 0x9 = some (.fnc1Second 0) ∧ decodeTableWord 8 0xE = some .reservedModeE := by decide +kernel

/-! ## Commands, one step each -/

/-- V8.5: NOP keeps a DONE. -/
theorem test_nop :
    statusAfter (issuing { State.reset with st := .done, stage := .fin } 0) = some (0x072, 0) := by decide +kernel
/-- V8.9: a `CMD` write while BUSY is ignored and sets HOSTERR. -/
theorem test_nop_busy :
    statusAfter (issuing { State.reset with st := .busy, stage := .bin, cmd := .decode } 0) = some (0x211, 0) := by
  decide +kernel
/-- V8.2: DECODE after reset. -/
theorem test_decode_zero_size : statusAfter (issuing State.reset 1) = some (0x004, 0x3004) := by decide +kernel
/-- V8.9: DECODE accepted: BUSY, next stage BIN. -/
theorem test_decode_accepted : statusAfter (issuing (withOperands 116 116 0 0) 1) = some (0x011, 0) := by decide +kernel
/-- V8.3: BINARIZE does not check hints. -/
theorem test_binarize_hints :
    statusAfter (issuing { withOperands 20 10 0 0 with hints := 0x40 } 2) = some (0x011, 0) := by decide +kernel
/-- V8.3: 2049 by 1. -/
theorem test_binarize_range : statusAfter (issuing (withOperands 2049 1 0 0) 2) = some (0x004, 0x3104) := by
  decide +kernel
/-- V8.3: DETECT of 2048 by 2048 is accepted, of `FORMATS_VALID` without QR not. -/
theorem test_detect :
    statusAfter (issuing (withOperands 2048 2048 0 0) 3) = some (0x021, 0) ∧
      statusAfter (issuing { withOperands 2048 2048 0 0 with hints := 8 } 3) = some (0x004, 0x3404) := by decide +kernel
/-- V8.3: `ARG0` of DECODESYM. -/
theorem test_decodesym :
    ([20, 21, 22, 25, 177, 181] : List Word).map (fun a => statusAfter (issuing (withOperands 0 0 a 0) 4)) =
      [some (0x004, 0x3304), some (0x031, 0), some (0x004, 0x3304), some (0x031, 0), some (0x031, 0),
        some (0x004, 0x3304)] := by decide +kernel
/-- V8.3: the arguments of RSDECODE. -/
theorem test_rsdecode :
    ([(26, 0), (26, 27), (256, 10), (26, 26), (255, 255), (1, 1)] : List (Word × Word)).map
        (fun a => (statusAfter (issuing (withOperands 0 0 a.1 a.2) 5)).map Prod.fst) =
      [some 0x004, some 0x004, some 0x004, some 0x051, some 0x051, some 0x051] := by decide +kernel
/-- V6.4, V6.4b: the stage of RSDECODE, one error corrected, two not. -/
theorem test_rsdecode_stage :
    rsDecode [0x12, 0xCB, 0x56, 0x98, 0xE8] 2 = some ([0x12, 0x34, 0x56, 0x98, 0xE8], 1) ∧
      rsDecode [0x12, 0xCB, 0x56, 0x99, 0xE8] 2 = none := by decide +kernel
/-- V8.3: the arguments of PARSEBITS. -/
theorem test_parsebits :
    ([(0, 1), (2957, 1), (16, 0), (16, 41), (16, 0x401), (2956, 40), (16, 0x301)] : List (Word × Word)).map
        (fun a => (statusAfter (issuing (withOperands 0 0 a.1 a.2) 6)).map Prod.fst) =
      [some 0x004, some 0x004, some 0x004, some 0x004, some 0x004, some 0x061, some 0x061] := by decide +kernel
/-- V8.5: CLEAR after a DONE with a pending interrupt; `ARG0` keeps its value. -/
theorem test_clear :
    (after (step (issuing
      { withOperands 0 0 7 0 with st := .done, stage := .fin, irqPend := 1, res := { textLen := 5 } } 7))).map
        (fun t => (statusWord t, t.irqPend, t.res.textLen, t.arg0)) = some (0, 0, 0, 7) := by decide +kernel
/-- V8.3, V8.6: every reserved command code. -/
theorem test_reserved_commands :
    ([0x8, 0x9, 0xA, 0xB, 0xC, 0xD, 0xE, 0xF, 0x11, 0x80000001] : List Word).all
      (fun w => statusAfter (issuing State.reset w) = some (0x004, 0x3204)) = true := by decide +kernel

/-! ## Segments, one step each -/

/-- V7.1. -/
theorem test_terminator :
    (after (step (parse 1 0 [0x00, 0xEC, 0x11]))).map (fun t => (t.bits.bitpos, t.bits.nseg, statusWord t)) =
      some (4, 0, 0x071) := by decide +kernel
/-- V7.2. -/
theorem test_numeric :
    appended 8 (parse 1 0 [0x10, 0x20, 0x0C, 0x56, 0x61, 0x80]) =
      some ([0x30, 0x31, 0x32, 0x33, 0x34, 0x35, 0x36, 0x37], [0x31, 0, 0, 8], 41) := by decide +kernel
/-- V7.8, V7.9: the value before the truncation, and the truncation. -/
theorem test_numeric_illegal :
    statusAfter (parse 1 0 [0x10, 0x1B, 0xFF]) = some (0x063, 0x1662) ∧
      statusAfter (parse 1 0 [0x10, 0x18, 0x7B]) = some (0x063, 0x1562) := by decide +kernel
/-- V7.10. -/
theorem test_alphanumeric :
    appended 5 (parse 1 0 [0x20, 0x29, 0xCE, 0xE7, 0x21, 0x00]) =
      some ([0x41, 0x43, 0x2D, 0x34, 0x32], [0x32, 0, 0, 5], 41) := by decide +kernel
/-- V7.11: 2025. -/
theorem test_alphanumeric_illegal : statusAfter (parse 1 0 [0x20, 0x17, 0xE9]) = some (0x063, 0x1662) := by
  decide +kernel
/-- V7.25. -/
theorem test_structured_append :
    (after (step (parse 1 0 [0x31, 0x2A, 0x50]))).map (fun t => (seg 0 t, t.bits.sa, t.bits.saSeen, t.bits.bitpos)) =
      some ([0x03, 0x12A5, 0, 0], 0xA512, true, 20) := by decide +kernel
/-- V7.14, V7.17: without and with a character set hint. -/
theorem test_byte :
    appended 2 (parse 1 0 [0x40, 0x24, 0x14, 0x20]) = some ([0x41, 0x42], [0x04, 0, 0, 2], 28) ∧
      appended 2 (parse 1 0x0004E404 [0x40, 0x24, 0x14, 0x20]) = some ([0x41, 0x42], [0x14, 0x4E4, 0, 2], 28) := by
  decide +kernel
/-- V7.13. -/
theorem test_fnc1_first :
    (after (step (parse 1 0 [0x52, 0x00, 0xCC]))).map (fun t => (seg 0 t, t.bits.fnc1a, t.bits.bitpos)) =
      some ([0x05, 0, 0, 0], true, 4) := by decide +kernel
/-- V7.29 and, of its second step, the entry of the BYTE after the ECI. -/
theorem test_eci :
    ((after (step (parse 1 0 [0x71, 0xA4, 0x02, 0xC3, 0xA9]))).bind fun t =>
        (after (step t)).map fun u => (seg 0 u, seg 1 u, text 2 u, u.bits.bitpos)) =
      some ([0x07, 0x1A, 0, 0], [0x24, 0x1A, 0, 2], [0xC3, 0xA9], 40) := by decide +kernel
/-- V7.32. -/
theorem test_eci_illegal : statusAfter (parse 1 0 [0x7E, 0x00, 0x00, 0x00]) = some (0x063, 0x1762) := by decide +kernel
/-- V7.20. -/
theorem test_kanji :
    appended 6 (parse 1 0 [0x80, 0x3B, 0x9F, 0xDD, 0x03, 0xFF, 0xE0]) =
      some ([0x9F, 0xFF, 0xE0, 0x40, 0xEB, 0xBF], [0x48, 0, 0, 6], 51) := by decide +kernel
/-- V7.28. -/
theorem test_fnc1_second :
    (after (step (parse 1 0 [0x92, 0x50]))).map (fun t => (seg 0 t, t.bits.app, t.bits.fnc1b, t.bits.bitpos)) =
      some ([0x09, 0x25, 0, 0], 0x25, true, 12) := by decide +kernel
/-- V7.22. -/
theorem test_hanzi :
    appended 8 (parse 1 0 [0xD1, 0x04, 0x00, 0x00, 0xF0, 0x07, 0x7F, 0xFF, 0xF0]) =
      some ([0xA1, 0xA1, 0xB0, 0xA1, 0xAB, 0x00, 0xFB, 0xC0], [0x5D, 0, 0, 8], 68) := by decide +kernel
/-- V7.23. -/
theorem test_hanzi_subset : statusAfter (parse 1 0 [0xD0, 0x01, 0x00, 0x00]) = some (0x063, 0x1862) := by decide +kernel
/-- V7.34, each reserved mode. -/
theorem test_reserved_modes :
    ([0x60, 0xA0, 0xB0, 0xC0, 0xE0, 0xF0] : List Nat).all
      (fun b => statusAfter (parse 1 0 [b]) = some (0x063, 0x1462)) = true := by decide +kernel

/-! ## Steps of the sequencer -/

/-- R476: a reserved mode in pass 0 of DECODESYM takes the mirror edge, in pass 1 ends with the latched exception. -/
theorem test_mirror :
    statusAfter (parseSym false [0x60]) = some (0x131, 0) ∧
      statusAfter (parseSym true [0x60]) = some (0x133, 0x1132) := by decide +kernel
/-- R474, V8.4: the end step of a PARSEBITS of 16 bytes of version 1, level code 3. -/
theorem test_end_step :
    (after (step { withOperands 0 0 16 0x301 with
        st := .busy, stage := .fin, cmd := .parsebits
        bits := { ver := 1, ndata := 16, bitpos := 78, tlen := 11, nseg := 1 } })).map
      (fun t => (statusWord t, readReg t .resVersion, readReg t .resFormat, readReg t .resNumBits)) =
      some (0x072, 1, 3, 128) := by decide +kernel
/-- V8.8: `rd 0x0000002C` returns 0 and sets HOSTERR; `rd ID` is legal. -/
theorem test_host_reads :
    (hostRead State.reset 0x2C .b4).hosterr = true ∧
      (hostRead State.reset 0 .b4).rdata = 0x51524431 ∧
      (hostRead State.reset 0x03002E7C .b4).hosterr = false := by decide +kernel
/-- V6.1: the field. -/
theorem test_field :
    gfmul 2 128 = 29 ∧ gfmul 3 7 = 9 ∧ gfinv 2 = 142 ∧ gfmul 0x53 0xCA = 143 ∧ gfinv 255 = 253 := by decide +kernel

/-! ## Witnesses: for each statement with hypotheses, what meets them, clause by clause at the edges of their ranges -/

/-- A frame of the given width and height. -/
def framed (w h : Word) : State := withOperands w h 0 0

/-- A host access about to be served. -/
def served (st : RunState) (e : HostEvent) : State := { State.reset with st := st, host := [e] }

/-- A command about to take its end step. -/
def ending (c : Command) : State := { State.reset with st := .busy, stage := .fin, cmd := c }

/-- An RSDECODE about to run its stage, `CW` loaded. -/
def decoding (ec : Word) (bytes : List Byte) : State :=
  { withOperands 0 0 (BitVec.ofNat 32 bytes.length) ec with
    st := .busy, stage := .ec, cmd := .rsdecode, mem := storeBytes Config.hw [] .cw 0 bytes }

/-- A symbol whose format modules read the word `f` twice and whose version modules read `v` twice. -/
def wordsAt (d f v : Nat) (x y : Nat) : Bool :=
  (((formatPlaces1 ++ formatPlaces2 d).zip (fieldBits 15 f ++ fieldBits 15 f)) ++
      ((versionPlaces1 d ++ versionPlaces2 d).zip (fieldBits 18 v ++ fieldBits 18 v))).any
    fun p => p.1 == (x, y) && p.2

/-- Three patterns at the corners of an upright square. -/
def corners (a b : Nat) : Ordered :=
  { bl := { x := F64.ofNat {} a, y := F64.ofNat {} b }, tl := { x := F64.ofNat {} a, y := F64.ofNat {} a }
    tr := { x := F64.ofNat {} b, y := F64.ofNat {} a } }

theorem witness_CommandWordsRoundTrip :
    (Instr.isCommand .nop = true ∧ Instr.wf .low .nop = true ∧ encode .low .nop = .word 0) ∧
      (Instr.isCommand (.reservedCmdNonzeroUpper 15 0xFFFFFFF) = true ∧
        Instr.wf .high (.reservedCmdNonzeroUpper 15 0xFFFFFFF) = true ∧
        encode .high (.reservedCmdNonzeroUpper 15 0xFFFFFFF) = .word 0xFFFFFFFF) := by decide +kernel

theorem witness_SegmentsRoundTrip :
    Instr.isCommand (.numeric 1 [7]) = false ∧ Instr.wf .low (.numeric 1 [7]) = true ∧
      encode .low (.numeric 1 [7]) = .bits (fieldBits 4 1 ++ fieldBits 10 1 ++ fieldBits 4 7) ∧
      (∀ k, k < (fieldBits 4 1 ++ fieldBits 10 1 ++ fieldBits 4 7).length →
        stream [0x02, 0x00, 0xB8] (3 + k) = (fieldBits 4 1 ++ fieldBits 10 1 ++ fieldBits 4 7).getD k false) ∧
      3 + (fieldBits 4 1 ++ fieldBits 10 1 ++ fieldBits 4 7).length ≤ 21 := by decide +kernel

theorem witness_DecodedSegmentsStandInStream :
    decodeSegment .low (stream [0x02, 0x00, 0xB8]) 21 3 = .ok (.numeric 1 [7]) ∧
      decodeSegment .high (stream [0x05]) 8 4 = .ok .fnc1First := by decide +kernel

/-- The word of a row of S1 (`95_test_vectors.md` section 2.1). -/
def s1Rows : List Word :=
  [0x1FD27F, 0x105E41, 0x17535D, 0x174D5D, 0x175B5D, 0x105741, 0x1FD57F, 0x001900, 0x07D47D, 0x1F31BD, 0x128CE4,
    0x00810C, 0x040DEE, 0x1A7D00, 0x17567F, 0x0CFF41, 0x0E155D, 0x06955D, 0x03295D, 0x140041, 0x012D7F]

/-- The codewords of S1 (section 2.1), the 16 of `DATA` first. -/
def s1Cw : List Byte :=
  [0x20, 0x5B, 0x0B, 0x78, 0xD1, 0x72, 0xDC, 0x4D, 0x43, 0x40, 0xEC, 0x11, 0xEC, 0x11, 0xEC, 0x11, 0xC4, 0x23, 0x27,
    0x77, 0xEB, 0xD7, 0xE7, 0xE2, 0x5D, 0x17]

/-- The modules of S1. -/
def s1 (x y : Nat) : Bool := (s1Rows.getD y 0).getLsbD x

/-- S1 in a bit-matrix memory of rows of one word, at the given address. -/
def s1At (a : Nat) : List Host.Cell :=
  (s1Rows.flatMap wordBytes).zipIdx.filterMap fun p => if p.1 = 0 then none else some (a + p.2, p.1)

/-- A DECODESYM of dimension 21 about to run a stage on S1, its format and version known. -/
def reading (stage : Stage) : State :=
  { withOperands 0 0 21 0 with
    st := .busy, stage := stage, cmd := .decodesym, mem := s1At 0x03000000, sym := { mask := 2, ver := 1 } }

/-- The same about to run EC, its codewords in `CW`. -/
def correcting (cw : List Byte) : State :=
  { reading .ec with mem := storeBytes Config.hw [] .cw 0 cw, sym := { mask := 2, ver := 1, ncw := 26 } }

/-- A unit command about to run its stage on a frame. -/
def imaging (c : Command) (stage : Stage) (w h : Word) (m : List Host.Cell) : State :=
  { framed w h with st := .busy, stage := stage, cmd := c, mem := m }

/-- The frame of V3.3 and V3.4: 20 by 10, `a` in the left half and `b` in the right. -/
def halves (a b : Nat) : List Host.Cell :=
  (List.range 200).map fun k => (0x01000000 + k, BitVec.ofNat 8 (if k % 20 < 10 then a else b))

/-! ### Stages and builds -/

/-- V3.3, V3.4. -/
theorem test_stage_bin :
    (after (step (imaging .binarize .bin 20 10 (halves 30 230)))).map
        (fun t => (statusWord t, t.binPath, memLoad t.mem 0x02000000 8)) =
      some (0x071, true, [0xFF, 0x03, 0, 0, 0xFF, 0x03, 0, 0]) ∧
      statusAfter (imaging .binarize .bin 20 10 (halves 100 110)) = some (0x013, 0x0211) := by decide +kernel

/-- S1 as its own frame, one pixel a module: what is sampled is S1. -/
theorem test_stage_det :
    (after (step (imaging .detect .det 21 21 (s1At 0x02000000)))).map
        (fun t => (statusWord t, t.det.dim, memLoad t.mem 0x03000000 84)) =
      some (0x071, 21, s1Rows.flatMap wordBytes) := by decide +kernel

/-- V5.1: the format of S1. -/
theorem test_stage_parse :
    (after (step (reading .parse))).map (fun t => (statusWord t, t.sym.ecbits, t.sym.mask, t.sym.ver)) =
      some (0x041, 0, 2, 1) := by decide +kernel

/-- V5.1, V5.2: the codewords of S1, and in pass 1 those of its transpose. -/
theorem test_stage_readcw :
    (after (step (reading .readcw))).map (fun t => (statusWord t, t.sym.ncw, memLoad t.mem 0x03002000 26)) =
        some (0x051, 26, s1Cw) ∧
      (after (step { reading .readcw with pass := true, exc0 := some .ceUncorrectable })).map
        (fun t => memLoad t.mem 0x03002000 26) =
        some [0x44, 0x82, 0x28, 0xB3, 0x2C, 0x7A, 0x6B, 0x40, 0x88, 0xB7, 0x72, 0xE7, 0xA2, 0xBA, 0x82, 0x42, 0x52, 0x18,
          0x28, 0x7C, 0x1C, 0x82, 0xD8, 0xE7, 0xC3, 0xBE] := by decide +kernel

/-- V5.1: `DATA` of S1, with one codeword of it changed. -/
theorem test_stage_ec :
    (after (step (correcting (s1Cw.set 3 0)))).map
        (fun t => (statusWord t, t.ec.nerr, t.ec.ndata, memLoad t.mem 0x03004000 16)) =
      some (0x061, 1, 16, s1Cw.take 16) := by decide +kernel

/-- R203 and R201 in a build of blocks of 4: 20 by 20 is no longer too small for the local path. -/
theorem test_block_parameter :
    ((binarize { blockPow := 2 } (fun x _ => if x < 10 then 0 else 255) 20 20).map fun r => (r.path, r.rows.headD [])) =
        .ok (false, List.replicate 10 true ++ List.replicate 10 false) ∧
      ((binarize {} (fun x _ => if x < 10 then 0 else 255) 20 20).map fun r => r.path) = .ok true := by decide +kernel

/-- R210, R211 in a build of 256 buckets: the frame of V3.4 has two peaks apart. -/
theorem test_bucket_parameter :
    ((binarize { lumShift := 0 } (fun x _ => if x < 10 then 100 else 110) 20 10).map fun r => r.rows.headD []) =
        .ok (List.replicate 10 true ++ List.replicate 10 false) ∧
      binarize {} (fun x _ => if x < 10 then 100 else 110) 20 10 = .error .nfBinContrast := by decide +kernel

/-- R12: one third in binary64, in IEEE 754 binary32, and in a fixed-point format of 8 fraction bits rounding to zero
(0x3FD5555555555555 and 0x3EAAAAAB are the IEEE 754 encodings). -/
theorem test_number_format_parameter :
    F64.div {} (F64.ofNat {} 1) (F64.ofNat {} 3) = .fin false 0x15555555555555 (-54) ∧
      F64.div { prec := 24, emin := -149, emax := 104 } (F64.ofNat {} 1) (F64.ofNat {} 3) = .fin false 0xAAAAAB (-25) ∧
      F64.div { prec := 64, emin := -8, emax := 40, rounding := .towardZero } (F64.ofNat {} 1) (F64.ofNat {} 3) =
        .fin false 85 (-8) := by decide +kernel

/-! ### Witnesses of the statements about steps -/

theorem witness_StepRunsCommandWord :
    (issuing State.reset 7).bits.running = false ∧ (0x00000004 : Word).toNat = (issuing State.reset 7).cfg.base + 4 ∧
      (issuing State.reset 7).host = .write 0x00000004 .b4 7 :: [] := by
  decide +kernel

theorem witness_StepRunsSegment :
    (parse 1 0 [0x50]).bits.running = true ∧
      decodeSegment (tierOf (parse 1 0 [0x50]).bits.ver) (dataBit (parse 1 0 [0x50]).cfg (parse 1 0 [0x50]).mem)
        (8 * (parse 1 0 [0x50]).bits.ndata.toNat) (parse 1 0 [0x50]).bits.bitpos.toNat = .ok .fnc1First := by
  decide +kernel

theorem witness_StepStopsAtStreamEnd :
    let s := { parse 1 0 [0x50] with bits := { running := true, ver := 1, ndata := 1, bitpos := 5 } }
    s.bits.running = true ∧ 8 * s.bits.ndata.toNat < s.bits.bitpos.toNat + 4 := by decide +kernel

theorem witness_StepRaisesTruncated :
    (parse 1 0 [0x90]).bits.running = true ∧
      decodeSegment (tierOf (parse 1 0 [0x90]).bits.ver) (dataBit (parse 1 0 [0x90]).cfg (parse 1 0 [0x90]).mem)
        (8 * (parse 1 0 [0x90]).bits.ndata.toNat) (parse 1 0 [0x90]).bits.bitpos.toNat = .error .truncated := by
  decide +kernel

theorem witness_StepServesEventsInOrder :
    (State.reset.bits.running = false ∧ State.reset.host = []) ∧
      (served .busy .engine).host = .engine :: [] ∧ (served .idle (.read 8 .b4)).host = .read 8 .b4 :: [] ∧
      ((served .idle (.write 4 .b2 1)).host = .write 4 .b2 1 :: [] ∧
        ((4 : Word).toNat ≠ (served .idle (.write 4 .b2 1)).cfg.base + 4 ∨ Width.b2 ≠ .b4)) ∧
      ((served .idle (.write 8 .b4 1)).host = .write 8 .b4 1 :: [] ∧
        ((8 : Word).toNat ≠ (served .idle (.write 8 .b4 1)).cfg.base + 4 ∨ Width.b4 ≠ .b4)) ∧
      (served .busy (.rst [])).host = .rst [] :: [] ∧ ∀ e : HostEvent, (served .busy e).bits.running = false := by
  refine ⟨⟨rfl, rfl⟩, rfl, rfl, ⟨rfl, by decide +kernel⟩, ⟨rfl, by decide +kernel⟩, rfl, fun _ => rfl⟩

theorem witness_EngineTurn :
    EngineTurn (ending .detect) (ending .detect) ∧
      EngineTurn { ending .detect with host := [.engine, .read 8 .b4] } { ending .detect with host := [.read 8 .b4] } :=
  ⟨⟨rfl, .inl ⟨rfl, rfl⟩⟩, rfl, .inr ⟨[.read 8 .b4], rfl, rfl⟩⟩

/-! ### Witnesses of the statements about commands -/

theorem witness_BusyIgnoresCommands : (ending .decode).st = .busy := rfl

theorem witness_NopChangesNothing : State.reset.st ≠ .busy ∧ (ending .decode).st = .busy := by decide +kernel

theorem witness_ClearClearsStatus : State.reset.st ≠ .busy ∧ (ending .decode).st = .busy := by decide +kernel

theorem witness_HintsLegal : HintsLegal 0 ∧ HintsLegal 0x18 ∧ HintsLegal 0x0FFFFF3F ∧ HintsLegal 0xF0000000 := by
  unfold HintsLegal; decide +kernel

theorem witness_FrameLegal :
    FrameLegal (framed 1 1) ∧ FrameLegal (framed 2048 1) ∧ FrameLegal (framed 1 2048) ∧ FrameLegal (framed 2048 2048) := by
  unfold FrameLegal; decide +kernel

theorem witness_CommandsAccepted_frames :
    ((framed 1 2048).st ≠ .busy ∧ HintsLegal (framed 1 2048).hints ∧ FrameLegal (framed 1 2048)) ∧
      ({ framed 2048 1 with hints := 0x40 } : State).st ≠ .busy ∧ FrameLegal { framed 2048 1 with hints := 0x40 } := by
  unfold HintsLegal FrameLegal; decide +kernel

theorem witness_CommandsAccepted_decodesym :
    HintsLegal (withOperands 0 0 21 0).hints ∧
      ([21, 25, 177] : List Word).all (fun a =>
        let s := withOperands 0 0 a 0
        s.st ≠ .busy ∧ s.hints = 0 ∧ 21 ≤ s.arg0.toNat ∧ s.arg0.toNat ≤ 177 ∧ s.arg0.toNat % 4 = 1) = true := by
  unfold HintsLegal; decide +kernel

theorem witness_CommandsAccepted_rsdecode :
    ([(1, 1), (255, 1), (255, 255)] : List (Word × Word)).all (fun a =>
      let s := withOperands 0 0 a.1 a.2
      s.st ≠ .busy ∧ 1 ≤ s.arg1.toNat ∧ s.arg1.toNat ≤ s.arg0.toNat ∧ s.arg0.toNat ≤ 255) = true := by
  decide +kernel

theorem witness_CommandsAccepted_parsebits :
    HintsLegal (withOperands 0 0 1 1).hints ∧
      ([(1, 1), (2956, 0x328), (16, 0x301)] : List (Word × Word)).all (fun a =>
        let s := withOperands 0 0 a.1 a.2
        s.st ≠ .busy ∧ s.hints = 0 ∧ 1 ≤ s.arg0.toNat ∧ s.arg0.toNat ≤ 2956 ∧ s.arg1.toNat < 1024 ∧
          1 ≤ s.arg1.toNat % 256 ∧ s.arg1.toNat % 256 ≤ 40) = true := by
  unfold HintsLegal; decide +kernel

theorem witness_ReservedCommandsFatal :
    State.reset.st ≠ .busy ∧
      Instr.reservedCmd8 ∈ [Instr.reservedCmd8, .reservedCmd9, .reservedCmdA, .reservedCmdB, .reservedCmdC, .reservedCmdD,
        .reservedCmdE, .reservedCmdF] ∧
      Instr.reservedCmdF ∈ [Instr.reservedCmd8, .reservedCmd9, .reservedCmdA, .reservedCmdB, .reservedCmdC, .reservedCmdD,
        .reservedCmdE, .reservedCmdF] ∧
      ∃ op upper, Instr.reservedCmdNonzeroUpper 1 1 = .reservedCmdNonzeroUpper op upper :=
  ⟨by decide +kernel, by decide +kernel, by decide +kernel, 1, 1, rfl⟩

theorem witness_BadHintsAndFramesFatal_hints :
    ¬ HintsLegal 0x40 ∧ ¬ HintsLegal 0x80 ∧ ¬ HintsLegal 0x08 ∧ ¬ HintsLegal 0x10000004 ∧
      (Instr.decode, [Region.imgbits, .symbits, .cw, .data, .text, .seg]) ∈
        [(Instr.decode, [Region.imgbits, .symbits, .cw, .data, .text, .seg]), (.detect, [.symbits]),
          (.decodesym, [.cw, .data, .text, .seg]), (.parsebits, [.text, .seg])] := by
  unfold HintsLegal; decide +kernel

theorem witness_BadHintsAndFramesFatal_frame :
    ¬ FrameLegal (framed 0 5000) ∧ ¬ FrameLegal (framed 1 0) ∧ ¬ FrameLegal (framed 2049 1) ∧
      ¬ FrameLegal (framed 1 2049) ∧ HintsLegal (framed 2049 1).hints ∧
      (Instr.detect, [Region.symbits]) ∈
        [(Instr.decode, [Region.imgbits, .symbits, .cw, .data, .text, .seg]), (.detect, [.symbits])] := by
  unfold FrameLegal HintsLegal; decide +kernel

theorem witness_BadArgumentsFatal_decodesym :
    HintsLegal (withOperands 0 0 20 0).hints ∧ ([20, 22, 181, 0xFFFFFFFD] : List Word).all (fun a =>
      let s := withOperands 0 0 a 0
      s.st ≠ .busy ∧ s.hints = 0 ∧ ¬ (21 ≤ s.arg0.toNat ∧ s.arg0.toNat ≤ 177 ∧ s.arg0.toNat % 4 = 1)) = true := by
  unfold HintsLegal; decide +kernel

theorem witness_BadArgumentsFatal_rsdecode :
    ([(26, 0), (26, 27), (256, 10), (0, 0)] : List (Word × Word)).all (fun a =>
      let s := withOperands 0 0 a.1 a.2
      s.st ≠ .busy ∧ ¬ (1 ≤ s.arg1.toNat ∧ s.arg1.toNat ≤ s.arg0.toNat ∧ s.arg0.toNat ≤ 255)) = true := by
  decide +kernel

theorem witness_BadArgumentsFatal_parsebits :
    HintsLegal (withOperands 0 0 0 1).hints ∧
      ([(0, 1), (2957, 1), (16, 0), (16, 41), (16, 0x401)] : List (Word × Word)).all (fun a =>
      let s := withOperands 0 0 a.1 a.2
      s.st ≠ .busy ∧ s.hints = 0 ∧ ¬ (1 ≤ s.arg0.toNat ∧ s.arg0.toNat ≤ 2956 ∧ s.arg1.toNat < 1024 ∧
        1 ≤ s.arg1.toNat % 256 ∧ s.arg1.toNat % 256 ≤ 40)) = true := by
  unfold HintsLegal; decide +kernel

theorem witness_AcceptedDecodeForgetsThePast :
    let s := { framed 1 1 with mem := [(0x01000000, 9)] }
    let u := { framed 1 1 with
                st := .done, stage := .fin, candOvf := true, irqPend := 1, res := { textLen := 4 }
                mem := [(0x01000000, 9), (0x03006000, 65)] }
    s.cfg.legal = true ∧ u.cfg = s.cfg ∧ memoryOk s = true ∧ memoryOk u = true ∧ s.st ≠ .busy ∧
      u.st ≠ .busy ∧ HintsLegal s.hints ∧ FrameLegal s ∧
      u.imgWidth = s.imgWidth ∧ u.imgHeight = s.imgHeight ∧ u.hints = s.hints ∧
      ∀ a, inWindow s.cfg .luma a = true → memRead u.mem a = memRead s.mem a := by
  refine ⟨by decide +kernel, rfl, by decide +kernel, by decide +kernel, by decide +kernel, by decide +kernel,
    by unfold HintsLegal; decide +kernel,
    by unfold FrameLegal; decide +kernel, rfl, rfl, rfl, ?_⟩
  intro a ha
  have hb : a < 0x02000000 := by
    have hw : (0x01000000 ≤ a && a < 0x02000000) = true := ha
    exact of_decide_eq_true (Bool.and_eq_true_iff.mp hw).2
  simp only [memRead]
  split
  · rfl
  · rw [if_neg (by omega)]

theorem witness_appending :
    memWf State.reset.mem = true ∧ roomFor State.reset 8192 ∧
      roomFor { State.reset with bits := { tlen := 8192, nseg := 5911 } } 0 := by
  unfold roomFor; decide +kernel

theorem witness_NumericAppendsDigits : (∀ d ∈ [0, 9], d < 10) ∧ memWf State.reset.mem = true ∧ roomFor State.reset 2 := by
  unfold roomFor; decide +kernel

theorem witness_AlphanumericAppendsSymbols :
    (∀ k ∈ [0, 44], k < 45) ∧ memWf State.reset.mem = true ∧ roomFor State.reset 2 := by
  unfold roomFor; decide +kernel

theorem witness_ByteAppendsPayload : memWf State.reset.mem = true ∧ roomFor State.reset [0x41#8, 0x42#8].length := by
  unfold roomFor; decide +kernel

theorem witness_DoubleByteModesAppend :
    memWf State.reset.mem = true ∧ roomFor State.reset (2 * [0x173F#13, 0x1740#13].length) := by
  unfold roomFor; decide +kernel

theorem witness_StructuredAppendRecords : memWf State.reset.mem = true ∧ roomFor State.reset 0 := by
  unfold roomFor; decide +kernel

theorem witness_Fnc1Records : memWf State.reset.mem = true ∧ roomFor State.reset 0 := by
  unfold roomFor; decide +kernel

theorem witness_EciActivatesCharset :
    memWf State.reset.mem = true ∧ roomFor State.reset 0 ∧
      (∃ v : BitVec 7, EciDesignator.one 127 = .one v ∧ (127 : BitVec 21) = v.setWidth 21) ∧
      (∃ v : BitVec 14, EciDesignator.two 16383 = .two v ∧ (16383 : BitVec 21) = v.setWidth 21) ∧
      EciDesignator.three 0x1FFFFF = .three 0x1FFFFF :=
  ⟨by decide +kernel, by unfold roomFor; decide +kernel, ⟨127, rfl, by decide +kernel⟩, ⟨16383, rfl, by decide +kernel⟩, rfl⟩

theorem witness_ReservedModesRaise :
    (0xF, Instr.reservedModeF) ∈ [(0x6, Instr.reservedMode6), (0xA, .reservedModeA), (0xB, .reservedModeB),
        (0xC, .reservedModeC), (0xE, .reservedModeE), (0xF, .reservedModeF)] ∧
      4 + 4 ≤ 8 ∧ ∀ k, k < 4 → stream [0x5F] (4 + k) = (0xF : Nat).testBit (3 - k) := by decide +kernel

theorem witness_IllegalOperandsRaise :
    (∀ g ∈ [((1, [10]) : Nat × List Nat), (2, [100]), (3, [1000]), (6, [999, 1023]), (5, [0, 127])],
      (Instr.numeric g.1 g.2).wf .low = true ∧ digitGroupIllegal g.1 g.2 = true) ∧
      (∀ g ∈ [((1, [45]) : Nat × List Nat), (2, [2025]), (3, [2024, 63])],
        (Instr.alphanumeric g.1 g.2).wf .low = true ∧ symbolGroupIllegal g.1 g.2 = true) ∧
      (0 : BitVec 4) ≠ 1 ∧ (15 : BitVec 4) ≠ 1 := by decide +kernel

theorem witness_RaiseRule :
    ((parseSym false [0x60]).cmd = .decodesym ∧ (parseSym false [0x60]).pass = false ∧ excKind .feMode = .format ∧
        excStage .feMode = .bits) ∧
      (parseSym true [0x60]).pass = true ∧ Reports (parseSym true [0x60]) .feMode .feFormatInfo ∧
      (parse 1 0 [0x60]).cmd = .parsebits ∧ Reports (parse 1 0 [0x60]) .feMode .feMode :=
  ⟨by decide +kernel, rfl, rfl, rfl, rfl⟩

theorem witness_EndStepReports :
    ∀ c ∈ [Command.binarize, .detect, .decodesym, .rsdecode, .parsebits, .decode],
      EngineTurn (ending c) (ending c) ∧ (ending c).st = .busy ∧ (ending c).stage = .fin ∧ (ending c).cmd = c :=
  fun _ _ => ⟨⟨rfl, .inl ⟨rfl, rfl⟩⟩, rfl, rfl, rfl⟩

theorem witness_RegisterReads :
    ([0x00, 0x04, 0x08, 0x0C, 0x28, 0x30, 0x68, 0x80, 0xC4] : List Word).all (fun a =>
      a.toNat % 4 = 0 ∧ a.toNat = (ending .decode).cfg.base + a.toNat ∧
        ((registerWords (ending .decode)).map Prod.fst).contains a.toNat) = true := by
  decide +kernel

/-- The map is the one of R39: its offsets, and a word with every field of `STATUS` set. -/
theorem test_register_map :
    (registerWords { State.reset with st := .fatal, stage := .fin, pass := true, hosterr := true, candOvf := true }).getD 2
        (0, 0) = (0x08, 0x774) ∧
      (registerWords State.reset).map Prod.fst =
        [0x00, 0x04, 0x08, 0x0C, 0x10, 0x14, 0x18, 0x1C, 0x20, 0x24, 0x28] ++ (List.range 15).map (fun k => 0x30 + 4 * k) ++
          (List.range 18).map (fun k => 0x80 + 4 * k) := by decide +kernel

theorem witness_OperandRegistersLocked :
    ([0x10, 0x14, 0x18, 0x24, 0x28] : List Word).all (fun a =>
      let s := served .busy (.write a .b4 5)
      let u := served .done (.write a .b4 5)
      s.bits.running = false ∧ a.toNat % 4 = 0 ∧ a.toNat = s.cfg.base + a.toNat ∧
        [0x10, 0x14, 0x18, 0x24, 0x28].contains a.toNat ∧ s.host = .write a .b4 5 :: [] ∧ s.st = .busy ∧
        u.bits.running = false ∧ u.st ≠ .busy ∧ u.host = .write a .b4 5 :: []) = true := by
  decide +kernel

theorem witness_InterruptRegisters :
    (served .busy (.write 0x1C .b4 7)).bits.running = false ∧ (0x1C#32).toNat % 4 = 0 ∧ (0x20#32).toNat % 4 = 0 ∧
      (0x1C#32).toNat = State.reset.cfg.base + 0x1C ∧ (0x20#32).toNat = State.reset.cfg.base + 0x20 ∧
      (served .busy (.write 0x1C .b4 7)).host = .write 0x1C .b4 7 :: [] ∧
      (served .idle (.write 0x20 .b4 5)).host = .write 0x20 .b4 5 :: [] ∧
      (∃ k, k < 3 ∧ (7 : Word).getLsbD k = true ∧ (4 : BitVec 3).getLsbD k = true) :=
  ⟨rfl, rfl, rfl, rfl, rfl, rfl, rfl, 2, by decide +kernel, by decide +kernel, by decide +kernel⟩

theorem witness_IllegalAccessesIgnored :
    (0x00000002#32).toNat % widthBytes .b4 ≠ 0 ∧ (0x03004001#32).toNat % widthBytes .b2 ≠ 0 ∧
      regionOf Config.hw (0x00000100#32).toNat = none ∧ regionOf Config.hw (0x04000000#32).toNat = none ∧
      (regionOf Config.hw (0x00000008#32).toNat = some .regs ∧ Width.b2 ≠ .b4) ∧
      (regionOf Config.hw (0x0000002C#32).toNat = some .regs ∧ regAt (0x0000002C#32).toNat = none) ∧
      (regionOf Config.hw (0x000000FC#32).toNat = some .regs ∧ regAt (0x000000FC#32).toNat = none) ∧
      (0x2C#32).toNat = State.reset.cfg.base + 0x2C ∧ (0xFC#32).toNat = State.reset.cfg.base + 0xFC ∧
      (0x00#32).toNat = State.reset.cfg.base + 0x00 ∧ (0xC4#32).toNat = State.reset.cfg.base + 0xC4 ∧
      ((ending .decode).st = .busy ∧ regionOf Config.hw (0x01000000#32).toNat ≠ some .regs) ∧
      regionOf Config.hw (0x03006000#32).toNat = some .text ∧ regionOf Config.hw (0x03007FFF#32).toNat = some .text ∧
      regionOf Config.hw (0x03010000#32).toNat = some .seg ∧ regionOf Config.hw (0x03027FFF#32).toNat = some .seg := by
  decide +kernel

theorem witness_HostMemoryAccesses :
    State.reset.cfg.legal = true ∧ memoryOk State.reset = true ∧ memWf State.reset.mem = true ∧ State.reset.st ≠ .busy ∧
      ([(.luma, 0x01000000, .b1), (.luma, 0x01FFFFFC, .b4), (.imgbits, 0x0207FFFE, .b2), (.symbits, 0x03001097, .b1),
          (.cw, 0x03002E78, .b4), (.data, 0x03004B8A, .b2), (.text, 0x03007FFF, .b1), (.seg, 0x03027FFC, .b4)] :
          List (Region × Word × Width)).all (fun p =>
        p.2.1.toNat % widthBytes p.2.2 = 0 ∧ p.1 ≠ .regs ∧ inWindow State.reset.cfg p.1 p.2.1.toNat = true) = true ∧
      Region.cw ∈ [Region.luma, .imgbits, .symbits, .cw, .data] ∧
      inCapacity State.reset.cfg .cw 0x03002E79 = true ∧ inCapacity State.reset.cfg .cw 0x03002E7A = false ∧
      inWindow State.reset.cfg .cw 0x03002E7A = true := by decide +kernel

/-- R85: two of the four bytes at the end of `CW` have storage; R84: the halfword reads back, zero-extended. -/
theorem test_host_memory :
    let t := hostWrite State.reset 0x03002E78 .b4 0xDDCCBBAA
    t.mem = [(0x03002E78, 0xAA), (0x03002E79, 0xBB)] ∧ (hostRead t 0x03002E78 .b2).rdata = 0x0000BBAA ∧
      (hostRead t 0x03002E79 .b1).rdata = 0x000000BB ∧
      (hostWrite t 0x03002E78 .b1 0xFFFFFF00).mem = [(0x03002E79, 0xBB)] := by decide +kernel

theorem witness_ResetValues :
    (served .busy (.rst [(0x01000000, 3)])).bits.running = false ∧
      (served .busy (.rst [(0x01000000, 3)])).host = .rst [(0x01000000, 3)] :: [] := ⟨rfl, rfl⟩

theorem witness_ResetMeetsInvariant :
    Config.hw.legal = true ∧
      ({ base := 0x40000000, initMem := [(0x41000000, 3), (0, 1)], maxCand := 3, blockPow := 4, lumShift := 0
         numFmt := { prec := 24, emin := -149, emax := 104 } } : Config).legal = true := by decide +kernel

theorem witness_MachineInv :
    MachineInv (parse 1 0 [0x50]) ∧ MachineInv (parseSym false [0x60]) ∧ MachineInv (parseSym true [0x60]) ∧
      MachineInv { ending .decodesym with arg0 := 177 } := by
  unfold MachineInv; decide +kernel

theorem witness_StepKeepsInvariant :
    MachineInv (parse 1 0 [0x50]) ∧ (after (step (parse 1 0 [0x50]))).isSome = true := by
  unfold MachineInv; decide +kernel

theorem witness_StepNeverStops : MachineInv (parse 1 0 [0x50]) := by
  unfold MachineInv; decide +kernel

theorem witness_EveryCommandEnds : MachineInv (parse 1 0 [0x50]) ∧ (parse 1 0 [0x50]).host = [] := by
  unfold MachineInv; decide +kernel

theorem witness_StageOrder :
    (MachineInv (parse 1 0 [0x50]) ∧ (parse 1 0 [0x50]).st = .busy ∧
        (after (step (parse 1 0 [0x50]))).map (fun t => t.st) = some .busy) ∧
      (MachineInv (parseSym false [0x60]) ∧ (parseSym false [0x60]).st = .busy ∧
        (after (step (parseSym false [0x60]))).map (fun t => (t.st, t.pass, t.stage)) = some (.busy, true, .parse)) := by
  unfold MachineInv; decide +kernel

theorem witness_EngineLeavesInputsAlone : (after (engineStep (ending .detect))).isSome = true := by
  decide +kernel

theorem witness_SegmentsWriteOnlyTextAndSeg :
    (parse 1 0 [0x50]).bits.running = true ∧
      (after (step (parse 1 0 [0x50]))).map (fun t => t.bits.running) = some true ∧
      inWindows (parse 1 0 [0x50]).cfg [.text, .seg] 0x03005FFF = false ∧
      inWindows (parse 1 0 [0x50]).cfg [.text, .seg] 0x03008000 = false ∧
      inWindows (parse 1 0 [0x50]).cfg [.text, .seg] 0x03028000 = false := by decide +kernel

theorem witness_UniformFrameRejected :
    (1 : Nat) ≤ 1 ∧ ∀ x y, x < 1 → y < 1 → (fun _ _ => 7 : Nat → Nat → Nat) x y = (fun _ _ => 7 : Nat → Nat → Nat) 0 0 :=
  ⟨by decide +kernel, fun _ _ _ _ => rfl⟩

theorem witness_LocalPathClassifies :
    Config.hw.minDim ≤ 40 ∧ ({ blockPow := 2 } : Config).minDim ≤ 40 ∧
      ∃ x y, x < 40 ∧ y < 40 ∧ (fun x y => x + y : Nat → Nat → Nat) x y ≠ (fun x y => x + y) 0 0 :=
  ⟨by decide +kernel, by decide +kernel, 39, 39, by decide +kernel, by decide +kernel, by decide +kernel⟩

theorem witness_PackedMatrixReadsBack :
    memWf [] = true ∧ (∀ row ∈ List.replicate 2 (List.replicate 33 true), row.length = 33) ∧
      4 * (rowWords 33 * (List.replicate 2 (List.replicate 33 true)).length) ≤ regionCapacity Config.hw .symbits ∧
      1 < (List.replicate 2 (List.replicate 33 true)).length ∧ 63 < 32 * rowWords 33 := by decide +kernel

theorem witness_ImageStagesStore_bin :
    let s := imaging .binarize .bin 20 10 (halves 30 230)
    let u := imaging .decode .bin 20 10 (halves 100 110)
    EngineTurn s s ∧ s.st = .busy ∧ s.cfg.legal = true ∧ FrameLegal s ∧ memWf s.mem = true ∧ s.stage = .bin ∧
      s.cmd = .binarize ∧ u.cmd = .decode ∧ EngineTurn u u ∧ FrameLegal u ∧ memWf u.mem = true ∧
      (∃ r, binarize s.cfg
        (fun x y => (memRead s.mem (s.cfg.base + 0x01000000 + y * s.imgWidth.toNat + x)).toNat) 20 10 = .ok r) ∧
      ∃ e, binarize u.cfg
        (fun x y => (memRead u.mem (u.cfg.base + 0x01000000 + y * u.imgWidth.toNat + x)).toNat) 20 10 = .error e := by
  refine ⟨⟨rfl, .inl ⟨rfl, rfl⟩⟩, rfl, by decide +kernel, by unfold FrameLegal; decide +kernel, by decide +kernel, rfl, rfl,
    rfl, ⟨rfl, .inl ⟨rfl, rfl⟩⟩, by unfold FrameLegal; decide +kernel, by decide +kernel,
    ⟨⟨true, List.replicate 10 (List.replicate 10 true ++ List.replicate 10 false)⟩, by decide +kernel⟩,
    .nfBinContrast, by decide +kernel⟩

theorem witness_ImageStagesStore_det :
    let s := imaging .detect .det 21 21 (s1At 0x02000000)
    let u := imaging .decode .det 21 21 []
    EngineTurn s s ∧ s.st = .busy ∧ s.cfg.legal = true ∧ FrameLegal s ∧ memWf s.mem = true ∧ s.stage = .det ∧
      s.cmd = .detect ∧ u.cmd = .decode ∧ EngineTurn u u ∧ FrameLegal u ∧ memWf u.mem = true ∧
      ((detect s.cfg (imageSeen s) 21 21 (s.hints.getLsbD 0)).result.map fun r => (r.det.dim, r.rows)) =
        .ok (21, (List.range 21).map fun y => (List.range 21).map fun x => s1 x y) ∧
      (detect u.cfg (imageSeen u) 21 21 (u.hints.getLsbD 0)).result = .error .nfFewFinders := by
  refine ⟨⟨rfl, .inl ⟨rfl, rfl⟩⟩, rfl, by decide +kernel, by unfold FrameLegal; decide +kernel, by decide +kernel, rfl, rfl,
    rfl, ⟨rfl, .inl ⟨rfl, rfl⟩⟩, by unfold FrameLegal; decide +kernel, by decide +kernel, by decide +kernel,
    by decide +kernel⟩

theorem witness_DetectionIsLegal :
    dimension {} (corners 3 17) (F64.ofNat {} 1) = .ok 21 ∧ dimension {} (corners 3 173) (F64.ofNat {} 1) = .ok 177 ∧
      sampleGrid {} (fun _ _ => true) { a11 := F64.ofNat {} 1, a22 := F64.ofNat {} 1, a33 := F64.ofNat {} 1 } 2 2 1 =
        some [[true]] := by decide +kernel

theorem witness_CodesCorrectThreeBits :
    (31 < 32 ∧ 0x2BED < 2 ^ 15 ∧ 0x2BEA < 2 ^ 15 ∧ popcount18 (0x2BED ^^^ (formatWords.getD 31 0 ^^^ 0x5412)) ≤ 3 ∧
        popcount18 (0x2BEA ^^^ (formatWords.getD 31 0 ^^^ 0x5412)) ≤ 3) ∧
      Config.hw.versionMaxDiff ≤ 3 ∧ (0x07C94 ^^^ 7 < 2 ^ 18 ∧
        popcount18 ((0x07C94 ^^^ 7) ^^^ versionWords.getD (7 - 7) 0) ≤ Config.hw.versionMaxDiff) ∧
      (0x28C69 < 2 ^ 18 ∧ popcount18 (0x28C69 ^^^ versionWords.getD (40 - 7) 0) ≤ Config.hw.versionMaxDiff) := by
  decide +kernel

theorem witness_ParsedVersionFitsDimension :
    parseSymbol Config.hw (wordsAt 21 0x5412 0) 21 = .ok { ecbits := 0, mask := 0, ver := 1 } ∧
      parseSymbol Config.hw (wordsAt 177 0x2BED 0x28C69) 177 = .ok { ecbits := 3, mask := 7, ver := 40 } := by
  decide +kernel

theorem witness_VersionTableConsistent :
    ∀ n ∈ blockLengths (ecLayout 5 3), n = (blockLengths (ecLayout 5 3)).headD 0 ∨
      n = (blockLengths (ecLayout 5 3)).headD 0 + 1 := by decide +kernel

theorem witness_CodewordWalk : readCodewords s1 21 1 2 = .ok s1Cw := by decide +kernel

theorem witness_CodewordsDealt :
    (∀ n ∈ [2, 3], n = [2, 3].headD 0 ∨ n = [2, 3].headD 0 + 1) ∧ ∀ n ∈ ([] : List Nat), n = 0 ∨ n = 1 := by decide +kernel

theorem witness_SymbolStagesStore_parse :
    let s := reading .parse
    let u := { reading .parse with cmd := .decode, det := { dim := 21 }, mem := [] }
    EngineTurn s s ∧ s.st = .busy ∧ s.stage = .parse ∧ s.cmd = .decodesym ∧ EngineTurn u u ∧ u.cmd = .decode ∧
      parseSymbol s.cfg (symbolSeen s) (dimInHand s) = .ok { ecbits := 0, mask := 2, ver := 1 } ∧
      parseSymbol u.cfg (symbolSeen u) (dimInHand u) = .error .feFormatInfo := by
  refine ⟨⟨rfl, .inl ⟨rfl, rfl⟩⟩, rfl, rfl, rfl, ⟨rfl, .inl ⟨rfl, rfl⟩⟩, rfl, by decide +kernel, by decide +kernel⟩

theorem witness_SymbolStagesStore_readcw :
    let s := reading .readcw
    let u := { reading .readcw with pass := true, exc0 := some .feFormatInfo, sym := { mask := 2, ver := 2 } }
    EngineTurn s s ∧ s.stage = .readcw ∧ memWf s.mem = true ∧ EngineTurn u u ∧ u.stage = .readcw ∧
      readCodewords (symbolSeen s) (dimInHand s) s.sym.ver s.sym.mask.toNat = .ok s1Cw ∧
      readCodewords (symbolSeen u) (dimInHand u) u.sym.ver u.sym.mask.toNat = .error .feCwCount := by
  refine ⟨⟨rfl, .inl ⟨rfl, rfl⟩⟩, rfl, by decide +kernel, ⟨rfl, .inl ⟨rfl, rfl⟩⟩, rfl, by decide +kernel,
    by decide +kernel⟩

theorem witness_SymbolStagesStore_bits :
    let s := { withOperands 0 0 16 0x301 with st := .busy, stage := .bits, cmd := .parsebits }
    EngineTurn s s ∧ s.stage = .bits ∧ s.cmd = .parsebits ∧ EngineTurn (reading .bits) (reading .bits) ∧
      (reading .bits).stage = .bits ∧ (reading .bits).cmd = .decodesym :=
  ⟨⟨rfl, .inl ⟨rfl, rfl⟩⟩, rfl, rfl, ⟨rfl, .inl ⟨rfl, rfl⟩⟩, rfl, rfl⟩

theorem witness_BlockDecoderSound :
    rsDecode [0x12, 0xCB, 0x56, 0x98, 0xE8] 2 = some ([0x12, 0x34, 0x56, 0x98, 0xE8], 1) ∧
      (∀ i, i < 2 → peval [0x12, 0x34, 0x56, 0x98, 0xE8] (gfpow i) = 0) := by decide +kernel

theorem witness_SingleByteCorrected :
    2 ≤ 2 ∧ 2 ≤ [0x12#8, 0x34, 0x56, 0x98, 0xE8].length ∧ [0x12#8, 0x34, 0x56, 0x98, 0xE8].length ≤ 255 ∧
      (∀ j, j < 2 → peval [0x12, 0x34, 0x56, 0x98, 0xE8] (gfpow j) = 0) ∧
      0 < [0x12#8, 0x34, 0x56, 0x98, 0xE8].length ∧ 4 < [0x12#8, 0x34, 0x56, 0x98, 0xE8].length ∧ (0xFF : Byte) ≠ 0 := by
  decide +kernel

theorem witness_SymbolBlocksCorrected :
    let s := correcting (s1Cw.set 3 0)
    let u := correcting (s1Cw.map (· ^^^ 0x55))
    EngineTurn s s ∧ s.st = .busy ∧ s.stage = .ec ∧ s.cmd = .decodesym ∧ memWf s.mem = true ∧ 1 ≤ s.sym.ver ∧
      s.sym.ver ≤ 40 ∧ blockLengths (ecLayout s.sym.ver s.sym.ecbits) = [16] ∧
      (ecLayout s.sym.ver s.sym.ecbits).ec = 10 ∧
      rsDecode ((List.range (16 + 10)).map fun k => memRead s.mem (s.cfg.base + 0x03002000 + codewordPlace [16] 0 k)) 10 =
        some (s1Cw, 1) ∧
      EngineTurn u u ∧ memWf u.mem = true ∧
      rsDecode ((List.range (16 + 10)).map fun k => memRead u.mem (u.cfg.base + 0x03002000 + codewordPlace [16] 0 k)) 10 =
        none := by
  refine ⟨⟨rfl, .inl ⟨rfl, rfl⟩⟩, rfl, rfl, rfl, by decide +kernel, by decide +kernel, by decide +kernel, by decide +kernel,
    by decide +kernel, by decide +kernel, ⟨rfl, .inl ⟨rfl, rfl⟩⟩, by decide +kernel, by decide +kernel⟩

theorem witness_RsdecodeCorrectsInPlace :
    let s := decoding 2 [0x12, 0xCB, 0x56, 0x98, 0xE8]
    let u := decoding 2 [0x12, 0xCB, 0x56, 0x99, 0xE8]
    EngineTurn s s ∧ s.st = .busy ∧ s.stage = .ec ∧ s.cmd = .rsdecode ∧ memWf s.mem = true ∧ s.pass = false ∧
      s.arg0.toNat ≤ 255 ∧
      rsDecode (memLoad s.mem (s.cfg.base + 0x03002000) s.arg0.toNat) s.arg1.toNat =
        some ([0x12, 0x34, 0x56, 0x98, 0xE8], 1) ∧
      EngineTurn u u ∧ memWf u.mem = true ∧
      rsDecode (memLoad u.mem (u.cfg.base + 0x03002000) u.arg0.toNat) u.arg1.toNat = none := by
  refine ⟨⟨rfl, .inl ⟨rfl, rfl⟩⟩, rfl, rfl, rfl, by decide +kernel, rfl, by decide +kernel, by decide +kernel,
    ⟨rfl, .inl ⟨rfl, rfl⟩⟩, by decide +kernel, by decide +kernel⟩

end Sys2Proof.Tests
end

section
/-!
PROOFS about the field tables of `45_reed_solomon.md` R381. `EXP` and `LOG` are printed tables, so each fact is a check of
their entries; a fact about every byte is first brought to one about the 256 indices of `LOG`.
-/

namespace Sys2Proof.Proofs

open Sys2Proof Sys2Proof.Machine

/-! ## The two tables -/

theorem expTable_length : expTable.length = 256 := by decide +kernel

theorem logTable_length : logTable.length = 256 := by decide +kernel

theorem expAt_zero : expAt 0 = 1 := rfl

/-- The recurrence of R381: each entry of `EXP` is the double of the one before, reduced by 0x11D when bit 7 falls out. The
last step, from `EXP[254]`, closes the cycle at `EXP[255]`. -/
theorem expAt_succ :
    ∀ i, i < 255 → expAt (i + 1) = if (expAt i).msb then (expAt i <<< 1) ^^^ 0x1D#8 else expAt i <<< 1 := by
  decide +kernel

/-! ## `LOG` inverts `EXP` -/

theorem logAt_expAt : ∀ i, i < 255 → logAt (expAt i) = i := by decide +kernel

/-- `EXP` undoes `LOG` at each index of `LOG` but 0, whose entry R381 leaves unused. -/
theorem expAt_logAt_ofNat :
    ∀ n, n < 256 → n ≠ 0 → expAt (logAt (BitVec.ofNat 8 n)) = BitVec.ofNat 8 n := by
  decide +kernel

theorem expAt_logAt {a : Byte} (ha : a ≠ 0) : expAt (logAt a) = a := by
  have hn : a.toNat ≠ 0 := fun h => ha (BitVec.eq_of_toNat_eq h)
  simpa using expAt_logAt_ofNat a.toNat a.isLt hn

/-- Settles O56: the tables are checked entry by entry against the recurrence and against each other. -/
theorem fieldTables : Obligations.FieldTables :=
  ⟨expTable_length, logTable_length, expAt_zero, expAt_succ, logAt_expAt, fun _ => expAt_logAt⟩

end Sys2Proof.Proofs
end

section
/-!
PROOFS about the reserved mode values of `46_bitstream_parser.md` R449. They rest on three rules that hold beyond them: the
value of a field is the number its bits spell (R9), a mode indicator selects its operands (R130), and `raise` does what R476,
R478 and R510 say of every exception.
-/

namespace Sys2Proof.Proofs

open Sys2Proof Sys2Proof.Machine Sys2Proof.Laws

/-! ## Fields -/

@[simp] theorem fieldValue_nil : fieldValue [] = 0 := rfl

/-- The bit read last is the least significant one. -/
@[simp] theorem fieldValue_concat (bs : List Bool) (b : Bool) : fieldValue (bs ++ [b]) = 2 * fieldValue bs + b.toNat := by
  simp [fieldValue]

theorem fieldBits_succ (n v : Nat) : fieldBits (n + 1) v = fieldBits n (v / 2) ++ [v.testBit 0] := by
  have shifted : ∀ k ∈ List.range n, v.testBit (n + 1 - 1 - k) = (v / 2).testBit (n - 1 - k) := fun k hk => by
    have hk := List.mem_range.mp hk
    rw [Nat.testBit_div_two, show n - 1 - k + 1 = n + 1 - 1 - k by omega]
  rw [fieldBits, List.range_succ, List.map_append, List.map_congr_left shifted]
  simp [fieldBits]

/-- Reading back a field that holds the value. -/
theorem fieldValue_fieldBits {n v : Nat} (hv : v < 2 ^ n) : fieldValue (fieldBits n v) = v := by
  induction n generalizing v with
  | zero => simp_all [fieldBits]
  | succ n ih =>
    have hhalf : v / 2 < 2 ^ n := by omega
    rw [fieldBits_succ, fieldValue_concat, ih hhalf, Nat.toNat_testBit, pow_zero, Nat.div_one]
    omega

/-- A stretch of the stream that agrees with a field bit by bit holds that field. -/
theorem streamBits_eq_fieldBits {bit : Nat → Bool} {pos n v : Nat}
    (h : ∀ k, k < n → bit (pos + k) = v.testBit (n - 1 - k)) : streamBits bit pos n = fieldBits n v :=
  List.map_congr_left fun k hk => h k (List.mem_range.mp hk)

/-! ## The mode indicator -/

/-- Where the mode indicator is in the data, the segment is the one its operands give (R130). -/
theorem decodeSegment_of_readOperands {t : Tier} {bit : Nat → Bool} {stop pos m : Nat} {i : Instr}
    (hroom : pos + 4 ≤ stop) (hm : m < 2 ^ 4) (hbits : ∀ k, k < 4 → bit (pos + k) = m.testBit (3 - k))
    (hread : readOperands t bit stop m (pos + 4) = some i) : decodeSegment t bit stop pos = .ok i := by
  have hmode : fieldValue (streamBits bit pos 4) = m := by
    rw [streamBits_eq_fieldBits hbits, fieldValue_fieldBits hm]
  simp [decodeSegment, hmode, hread, Nat.not_lt.mpr hroom]

/-! ## Taking an exception -/

/-- The exception the end of a command reports is the one the machine picks (R478). -/
theorem reported_eq_of_reports {s : State} {e reported : Exc} (h : Reports s e reported) :
    (if s.pass then s.exc0.getD e else e) = reported := by
  unfold Reports at h
  cases hp : s.pass <;> simp_all

/-- The machine's `raise` raises the exception in every state: it takes the mirror edge exactly where R476 does, and ends
the command everywhere else. -/
theorem raise_raisesExc (s : State) (e : Exc) : RaisesExc s (raise s e) e := by
  unfold RaisesExc
  obtain ⟨hm, hr⟩ | ⟨hm, hr⟩ := raise_cases s e
  · rw [if_pos ((takesMirror_iff s e).mp hm), hr]
    exact mirrorEdge_mirrors s e
  · rw [if_neg (by rw [← takesMirror_iff, hm]; exact Bool.false_ne_true), hr]
    intro reported hrep
    exact reported_eq_of_reports hrep ▸ endWithExc_endsWith s e

/-! ## The reserved mode values -/

/-- The reserved mode values of R449, each with its instruction. -/
def reservedModes : List (Nat × Instr) :=
  [(0x6, .reservedMode6), (0xA, .reservedModeA), (0xB, .reservedModeB), (0xC, .reservedModeC), (0xE, .reservedModeE),
    (0xF, .reservedModeF)]

/-- What holds of each of the six rows holds of every reserved mode. -/
theorem reservedModes_induction {P : Nat → Instr → Prop} (h6 : P 0x6 .reservedMode6) (hA : P 0xA .reservedModeA)
    (hB : P 0xB .reservedModeB) (hC : P 0xC .reservedModeC) (hE : P 0xE .reservedModeE) (hF : P 0xF .reservedModeF)
    {m : Nat} {i : Instr} (h : (m, i) ∈ reservedModes) : P m i := by
  simp only [reservedModes, List.mem_cons, Prod.mk.injEq, List.not_mem_nil, or_false] at h
  obtain ⟨rfl, rfl⟩ | ⟨rfl, rfl⟩ | ⟨rfl, rfl⟩ | ⟨rfl, rfl⟩ | ⟨rfl, rfl⟩ | ⟨rfl, rfl⟩ := h <;> assumption

/-- A reserved mode has no operands: it is complete after its 4 bits, whatever follows. -/
theorem readOperands_reservedMode {m : Nat} {i : Instr} (h : (m, i) ∈ reservedModes) (t : Tier) (bit : Nat → Bool)
    (stop pos : Nat) : readOperands t bit stop m pos = some i :=
  reservedModes_induction (P := fun m i => readOperands t bit stop m pos = some i) rfl rfl rfl rfl rfl rfl h

theorem exec_reservedMode {m : Nat} {i : Instr} (h : (m, i) ∈ reservedModes) (s : State) :
    exec i s = .next (raise s .feMode) :=
  reservedModes_induction (P := fun _ i => exec i s = .next (raise s .feMode)) rfl rfl rfl rfl rfl rfl h

theorem reservedMode_lt {m : Nat} {i : Instr} (h : (m, i) ∈ reservedModes) : m < 2 ^ 4 :=
  reservedModes_induction (P := fun m _ => m < 2 ^ 4) (by decide) (by decide) (by decide) (by decide) (by decide)
    (by decide) h

/-- Settles O26: a reserved mode reads no operands, so it decodes from its 4 bits alone, and its execution is `raise`. -/
theorem reservedModesRaise : Obligations.ReservedModesRaise := by
  intro m i h
  have hrow : (m, i) ∈ reservedModes := h
  constructor
  · intro t bit stop pos hroom hbits
    exact decodeSegment_of_readOperands hroom (reservedMode_lt hrow) hbits (readOperands_reservedMode hrow ..)
  · intro s
    exact ⟨raise s .feMode, exec_reservedMode hrow s, raise_raisesExc s .feMode⟩

end Sys2Proof.Proofs
end

section
/-!
PROOFS about NOP and CLEAR, `47_sequencer_commands.md` R480 and R488. Both rest on the rule of R470 that every command word
shares: ignored with `HOSTERR` while BUSY, accepted otherwise.
-/

namespace Sys2Proof.Proofs

open Sys2Proof Sys2Proof.Machine Sys2Proof.Laws

/-! ## Issuing a command -/

/-- R470, for any instruction whose meaning is the issue of a command accepted as `t`. -/
theorem exec_of_issue {i : Instr} {s t : State} (hexec : exec i s = .next (issue s t)) :
    (s.st ≠ .busy → exec i s = .next t) ∧ (s.st = .busy → exec i s = .next { s with hosterr := true }) := by
  constructor
  · intro hnotBusy
    rw [hexec, issue_of_not_busy s t hnotBusy]
  · intro hbusy
    rw [hexec, issue_of_busy s t hbusy, setHosterr]

/-! ## NOP -/

theorem decodeCommand_nop : decodeCommand 0x00000000 = .nop := by decide

theorem exec_nop (s : State) : exec .nop s = .next (issue s s) := rfl

/-- Settles O11: NOP is issued as the state it finds. -/
theorem nopChangesNothing : Obligations.NopChangesNothing :=
  ⟨decodeCommand_nop, fun s => exec_of_issue (exec_nop s)⟩

/-! ## CLEAR -/

theorem decodeCommand_clear : decodeCommand 0x00000007 = .clear := by decide

theorem exec_clear (s : State) : exec .clear s = .next (issue s (clearStatus s)) := rfl

/-- R488 in full: what CLEAR sets, over the state it finds. -/
theorem clearStatus_eq (s : State) :
    clearStatus s =
      { s with
        st := .idle, stage := .none, pass := false, hosterr := false, candOvf := false, cause := none, irqPend := 0
        res := {}, cmd := .none, exc0 := none, binPath := false, det := {}, sym := {}, ec := {}, bits := {} } := rfl

/-- Settles O12: CLEAR is issued as `clearStatus`, which sets those fields and no other. -/
theorem clearClearsStatus : Obligations.ClearClearsStatus := by
  refine ⟨decodeCommand_clear, fun s => ?_⟩
  rw [← clearStatus_eq]
  exact exec_of_issue (exec_clear s)

end Sys2Proof.Proofs
end

section
/-!
PROOFS about `60_exceptions.md`: what raising an exception does (R476, R478, R510). The case split on R476's condition stands
in `raise_raisesExc`; on its two sides are `mirrorEdge_mirrors` and `endWithExc_endsWith`.
-/

namespace Sys2Proof.Proofs

open Sys2Proof Sys2Proof.Machine

/-- Settles O28: `raise` takes the mirror edge where R476 says so and ends the command in every other state. -/
theorem raiseRule : Obligations.RaiseRule := raise_raisesExc

end Sys2Proof.Proofs
end

section
/-!
PROOFS about the segment encodings of `30_encoding.md` R130 to R142. Each reader of the decoder succeeds exactly where the
bits of what it returns stand in the stream (`Stands`); put together, `decodeSegment` reads an instruction exactly where its
encoding stands, which is both directions of the round trip.
-/

namespace Sys2Proof.Proofs

open Sys2Proof Sys2Proof.Machine Sys2Proof.Laws

/-! ## Bits that stand in the stream -/

/-- The bits `b` stand in the stream from position `pos` on, within the data that ends at `stop`. -/
def Stands (bit : Nat → Bool) (stop pos : Nat) (b : List Bool) : Prop :=
  pos + b.length ≤ stop ∧ ∀ k, k < b.length → bit (pos + k) = b.getD k false

theorem stands_nil {bit : Nat → Bool} {stop pos : Nat} : Stands bit stop pos [] ↔ pos ≤ stop := by simp [Stands]

theorem stands_append {bit : Nat → Bool} {stop pos : Nat} {a b : List Bool} :
    Stands bit stop pos (a ++ b) ↔ Stands bit stop pos a ∧ Stands bit stop (pos + a.length) b := by
  unfold Stands
  rw [List.length_append]
  constructor
  · rintro ⟨hroom, hbits⟩
    refine ⟨⟨by omega, fun k hk => ?_⟩, by omega, fun k hk => ?_⟩
    · rw [hbits k (by omega), List.getD_append _ _ _ _ hk]
    · rw [Nat.add_assoc, hbits _ (by omega), List.getD_append_right _ _ _ _ (by omega), Nat.add_sub_cancel_left]
  · rintro ⟨⟨-, ha⟩, hroom, hb⟩
    refine ⟨by omega, fun k hk => ?_⟩
    by_cases hka : k < a.length
    · rw [ha k hka, List.getD_append _ _ _ _ hka]
    · have hb := hb (k - a.length) (by omega)
      rw [List.getD_append_right _ _ _ _ (by omega), ← hb]
      congr 1
      omega

theorem stands_iff_streamBits {bit : Nat → Bool} {stop pos : Nat} {b : List Bool} :
    Stands bit stop pos b ↔ pos + b.length ≤ stop ∧ streamBits bit pos b.length = b := by
  refine and_congr_right fun _ => ⟨fun h => ?_, fun h k hk => ?_⟩
  · apply List.ext_getElem (by simp [streamBits])
    intro k _ hk
    simp [streamBits, h k hk, List.getElem?_eq_getElem hk]
  · have hget : (streamBits bit pos b.length).getD k false = bit (pos + k) := by simp [streamBits, hk]
    rw [← hget, h]

/-! ## Fields -/

theorem fieldValue_lt (bs : List Bool) : fieldValue bs < 2 ^ bs.length := by
  induction bs using List.reverseRecOn with
  | nil => decide
  | append_singleton bs b ih =>
    have := b.toNat_le
    rw [fieldValue_concat, List.length_append, List.length_singleton, Nat.pow_succ]
    omega

theorem fieldBits_fieldValue (bs : List Bool) : fieldBits bs.length (fieldValue bs) = bs := by
  induction bs using List.reverseRecOn with
  | nil => rfl
  | append_singleton bs b ih =>
    have hhalf : (2 * fieldValue bs + b.toNat) / 2 = fieldValue bs := by have := b.toNat_le; omega
    have hlow : (2 * fieldValue bs + b.toNat).testBit 0 = b := by cases b <;> simp
    rw [List.length_append, List.length_singleton, fieldBits_succ, fieldValue_concat, hhalf, hlow, ih]

/-- A field is the field of its high bits followed by the field of its low bits. -/
theorem fieldBits_add (n m v : Nat) : fieldBits (n + m) v = fieldBits n (v / 2 ^ m) ++ fieldBits m v := by
  induction m generalizing v with
  | zero => simp [fieldBits]
  | succ m ih =>
    rw [← Nat.add_assoc, fieldBits_succ, ih, fieldBits_succ m, ← List.append_assoc, Nat.div_div_eq_div_mul,
      Nat.pow_succ, Nat.mul_comm 2]

/-- A field holds its value modulo the power its width gives. -/
theorem fieldBits_mod (n v : Nat) : fieldBits n (v % 2 ^ n) = fieldBits n v :=
  List.map_congr_left fun k hk => by
    have := List.mem_range.mp hk
    rw [Nat.testBit_mod_two_pow, decide_eq_true (by omega), Bool.true_and]

/-- R421: a field is read exactly where its bits stand. -/
theorem readField_eq_some_iff {bit : Nat → Bool} {stop pos n v : Nat} :
    readField bit stop pos n = some v ↔ v < 2 ^ n ∧ Stands bit stop pos (fieldBits n v) := by
  have hlen : (streamBits bit pos n).length = n := by simp [streamBits]
  rw [stands_iff_streamBits, fieldBits_length, readField]
  split
  · simp only [reduceCtorEq, false_iff]
    omega
  · rw [Option.some.injEq]
    constructor
    · rintro rfl
      have hlt := fieldValue_lt (streamBits bit pos n)
      have hback := fieldBits_fieldValue (streamBits bit pos n)
      rw [hlen] at hlt hback
      exact ⟨hlt, by omega, hback.symm⟩
    · rintro ⟨hv, -, hbits⟩
      rw [hbits, fieldValue_fieldBits hv]

/-! ## Groups and lists of fields -/

/-- Where a field is read, its bits are those of the value read and of no other. -/
theorem stands_field_iff_eq {bit : Nat → Bool} {stop pos n x y : Nat} (h : readField bit stop pos n = some x) :
    y < 2 ^ n ∧ Stands bit stop pos (fieldBits n y) ↔ x = y := by
  rw [← readField_eq_some_iff, h, Option.some.injEq]

theorem not_stands_of_readField_none {bit : Nat → Bool} {stop pos n y : Nat} (h : readField bit stop pos n = none)
    (hy : y < 2 ^ n) : ¬ Stands bit stop pos (fieldBits n y) := fun hs => by
  simp [readField_eq_some_iff.mpr ⟨hy, hs⟩] at h

theorem room_of_readField {bit : Nat → Bool} {stop pos n x : Nat} (h : readField bit stop pos n = some x) :
    pos + n ≤ stop := by
  simpa using (readField_eq_some_iff.mp h).2.1

theorem readFields_eq_some_iff {bit : Nat → Bool} {stop n k pos : Nat} {l : List Nat} (hpos : pos ≤ stop) :
    readFields bit stop n k pos = some l ↔
      l.length = k ∧ (∀ x ∈ l, x < 2 ^ n) ∧ Stands bit stop pos (l.flatMap (fieldBits n)) := by
  induction k generalizing pos l with
  | zero => cases l <;> simp [readFields, stands_nil, hpos]
  | succ k ih =>
    cases hx : readField bit stop pos n with
    | none =>
      have := fun y => not_stands_of_readField_none (y := y) hx
      cases l <;> simp [readFields, hx, stands_append]
      grind
    | some x =>
      have hfirst := fun y => stands_field_iff_eq (y := y) hx
      have hrest := fun ys => ih (l := ys) (room_of_readField hx)
      cases l <;> simp [readFields, hx, stands_append, hrest]
      grind

@[simp] theorem numGroupBits_nil (c : Nat) : numGroupBits c [] = [] := by unfold numGroupBits; split <;> rfl

@[simp] theorem alnumGroupBits_nil (c : Nat) : alnumGroupBits c [] = [] := by unfold alnumGroupBits; split <;> rfl

/-- One field that is a whole list of groups. -/
theorem readField_singleton_iff {bit : Nat → Bool} {stop pos n : Nat} {gs : List Nat} :
    (readField bit stop pos n).map ([·]) = some gs ↔ ∃ x, gs = [x] ∧ x < 2 ^ n ∧ Stands bit stop pos (fieldBits n x) := by
  simp only [Option.map_eq_some_iff, readField_eq_some_iff]
  grind

/-- R134, R431: digit groups are read exactly where their bits stand. -/
theorem readNumGroups_eq_some_iff {bit : Nat → Bool} {stop c pos : Nat} {gs : List Nat} (hpos : pos ≤ stop) :
    readNumGroups bit stop c pos = some gs ↔ numGroupsOk c gs = true ∧ Stands bit stop pos (numGroupBits c gs) := by
  induction c, pos using readNumGroups.induct bit stop generalizing gs with
  | case1 pos => cases gs <;> simp [readNumGroups, numGroupsOk, numGroupBits, stands_nil, hpos]
  | case2 pos =>
    rw [readNumGroups, readField_singleton_iff]
    rcases gs with _ | ⟨x, _ | ⟨y, ys⟩⟩ <;> simp [numGroupsOk, numGroupBits]
  | case3 pos =>
    rw [readNumGroups, readField_singleton_iff]
    rcases gs with _ | ⟨x, _ | ⟨y, ys⟩⟩ <;> simp [numGroupsOk, numGroupBits]
  | case4 c pos hx =>
    have := fun y => not_stands_of_readField_none (y := y) hx
    cases gs <;> simp [readNumGroups, hx, numGroupsOk, numGroupBits, stands_append]
    grind
  | case5 c pos x hx hillegal =>
    have hfirst := fun y => stands_field_iff_eq (y := y) hx
    have hroom := room_of_readField hx
    cases gs <;> simp [readNumGroups, hx, numGroupsOk, numGroupBits, stands_append, hillegal]
    grind [stands_nil, numGroupBits_nil]
  | case6 c pos x hx hlegal ih =>
    have hfirst := fun y => stands_field_iff_eq (y := y) hx
    have hrest := fun ys => ih (gs := ys) (room_of_readField hx)
    cases gs <;> simp [readNumGroups, hx, numGroupsOk, numGroupBits, stands_append, hlegal, hrest]
    grind

/-- R135, R433: symbol groups are read exactly where their bits stand. -/
theorem readAlnumGroups_eq_some_iff {bit : Nat → Bool} {stop c pos : Nat} {gs : List Nat} (hpos : pos ≤ stop) :
    readAlnumGroups bit stop c pos = some gs ↔
      alnumGroupsOk c gs = true ∧ Stands bit stop pos (alnumGroupBits c gs) := by
  induction c, pos using readAlnumGroups.induct bit stop generalizing gs with
  | case1 pos => cases gs <;> simp [readAlnumGroups, alnumGroupsOk, alnumGroupBits, stands_nil, hpos]
  | case2 pos =>
    rw [readAlnumGroups, readField_singleton_iff]
    rcases gs with _ | ⟨x, _ | ⟨y, ys⟩⟩ <;> simp [alnumGroupsOk, alnumGroupBits]
  | case3 c pos hx =>
    have := fun y => not_stands_of_readField_none (y := y) hx
    cases gs <;> simp [readAlnumGroups, hx, alnumGroupsOk, alnumGroupBits, stands_append]
    grind
  | case4 c pos x hx hillegal =>
    have hfirst := fun y => stands_field_iff_eq (y := y) hx
    have hroom := room_of_readField hx
    cases gs <;> simp [readAlnumGroups, hx, alnumGroupsOk, alnumGroupBits, stands_append, hillegal]
    grind [stands_nil, alnumGroupBits_nil]
  | case5 c pos x hx hlegal ih =>
    have hfirst := fun y => stands_field_iff_eq (y := y) hx
    have hrest := fun ys => ih (gs := ys) (room_of_readField hx)
    cases gs <;> simp [readAlnumGroups, hx, alnumGroupsOk, alnumGroupBits, stands_append, hlegal, hrest]
    grind

/-! ## ECI designators -/

/-- Two fields, one after the other, are one field. -/
theorem fieldBits_append {n m h l : Nat} (hl : l < 2 ^ m) :
    fieldBits n h ++ fieldBits m l = fieldBits (n + m) (h * 2 ^ m + l) := by
  rw [fieldBits_add, ← fieldBits_mod m (h * 2 ^ m + l), Nat.mul_comm, Nat.mul_add_div (by positivity), Nat.mul_add_mod,
    Nat.mod_eq_of_lt hl, Nat.div_eq_of_lt hl, Nat.add_zero]

/-- The number an ECI designator spells, its leading bits above its value (R139). -/
def eciNumber : EciDesignator → Nat
  | .one v => v.toNat
  | .two v => 2 * 2 ^ 14 + v.toNat
  | .three v => 6 * 2 ^ 21 + v.toNat
  | .illegal low => 7 * 2 ^ 5 + low.toNat

theorem eciDesignatorBits_eq (d : EciDesignator) : eciDesignatorBits d = fieldBits (eciBits d) (eciNumber d) := by
  cases d with
  | one v => exact (fieldBits_append (n := 1) (h := 0) v.isLt).trans (by simp [eciBits, eciNumber])
  | two v => exact fieldBits_append (n := 2) (h := 2) v.isLt
  | three v => exact fieldBits_append (n := 3) (h := 6) v.isLt
  | illegal low => exact fieldBits_append (n := 3) (h := 7) low.isLt

/-- A designator of more than one byte is read as its first byte and the number in the others. -/
theorem stands_two_fields_iff {bit : Nat → Bool} {stop pos m v : Nat} (hv : v < 2 ^ (8 + m)) :
    Stands bit stop pos (fieldBits (8 + m) v) ↔
      readField bit stop pos 8 = some (v / 2 ^ m) ∧ readField bit stop (pos + 8) m = some (v % 2 ^ m) := by
  have hhigh : v / 2 ^ m < 2 ^ 8 := by
    rw [Nat.div_lt_iff_lt_mul (by positivity), ← Nat.pow_add]
    exact hv
  have hlow : v % 2 ^ m < 2 ^ m := Nat.mod_lt _ (by positivity)
  rw [fieldBits_add, ← fieldBits_mod m, stands_append, fieldBits_length, readField_eq_some_iff, readField_eq_some_iff,
    and_iff_right hhigh, and_iff_right hlow]

/-- R139: a designator is read exactly where its bits stand. -/
theorem readEci_eq_some_iff {bit : Nat → Bool} {stop pos : Nat} {d : EciDesignator} :
    readEci bit stop pos = some d ↔ Stands bit stop pos (eciDesignatorBits d) := by
  rw [eciDesignatorBits_eq]
  constructor
  · intro h
    unfold readEci at h
    split at h
    · cases h
    rename_i b hb
    obtain ⟨hlt, hfirst⟩ := readField_eq_some_iff.mp hb
    split at h
    · cases h
      simpa [eciBits, eciNumber, Nat.mod_eq_of_lt ‹b < 128›] using hfirst
    split at h
    · obtain ⟨b1, hb1, rfl⟩ := Option.map_eq_some_iff.mp h
      obtain ⟨hlt1, hsecond⟩ := readField_eq_some_iff.mp hb1
      have hnum : eciNumber (.two (BitVec.ofNat 14 ((b % 64) * 256 + b1))) = b * 2 ^ 8 + b1 := by
        simp only [eciNumber, BitVec.toNat_ofNat]; omega
      rw [hnum, eciBits, ← fieldBits_append (n := 8) hlt1, stands_append, fieldBits_length]
      exact ⟨hfirst, hsecond⟩
    split at h
    · obtain ⟨b12, hb12, rfl⟩ := Option.map_eq_some_iff.mp h
      obtain ⟨hlt1, hsecond⟩ := readField_eq_some_iff.mp hb12
      have hnum : eciNumber (.three (BitVec.ofNat 21 ((b % 32) * 65536 + b12))) = b * 2 ^ 16 + b12 := by
        simp only [eciNumber, BitVec.toNat_ofNat]; omega
      rw [hnum, eciBits, ← fieldBits_append (n := 8) hlt1, stands_append, fieldBits_length]
      exact ⟨hfirst, hsecond⟩
    · cases h
      have hnum : eciNumber (.illegal (BitVec.ofNat 5 (b % 32))) = b := by
        simp only [eciNumber, BitVec.toNat_ofNat]; omega
      rwa [hnum]
  · intro h
    unfold readEci
    cases d with
    | one v =>
      have hv := v.isLt
      rw [readField_eq_some_iff.mpr ⟨show eciNumber (.one v) < 2 ^ 8 by simp only [eciNumber]; omega, h⟩]
      simp [eciNumber, hv]
    | two v =>
      have hv := v.isLt
      have hb : eciNumber (.two v) / 2 ^ 8 < 192 ∧ 128 ≤ eciNumber (.two v) / 2 ^ 8 := by simp only [eciNumber]; omega
      obtain ⟨h0, h1⟩ := (stands_two_fields_iff (m := 8) (by simp only [eciNumber]; omega)).mp h
      rw [h0]
      simp only [h1, if_neg (Nat.not_lt.mpr hb.2), if_pos hb.1, Option.map_some, Option.some.injEq,
        EciDesignator.two.injEq]
      apply BitVec.eq_of_toNat_eq
      simp only [eciNumber, BitVec.toNat_ofNat]
      omega
    | three v =>
      have hv := v.isLt
      have hb : eciNumber (.three v) / 2 ^ 16 < 224 ∧ 192 ≤ eciNumber (.three v) / 2 ^ 16 := by
        simp only [eciNumber]; omega
      obtain ⟨h0, h1⟩ := (stands_two_fields_iff (m := 16) (by simp only [eciNumber]; omega)).mp h
      rw [h0]
      simp only [h1, if_neg (show ¬ eciNumber (.three v) / 2 ^ 16 < 128 by omega), if_neg (Nat.not_lt.mpr hb.2),
        if_pos hb.1, Option.map_some, Option.some.injEq, EciDesignator.three.injEq]
      apply BitVec.eq_of_toNat_eq
      simp only [eciNumber, BitVec.toNat_ofNat]
      omega
    | illegal low =>
      have hlow := low.isLt
      have hb : eciNumber (.illegal low) < 2 ^ 8 ∧ 224 ≤ eciNumber (.illegal low) := by simp only [eciNumber]; omega
      rw [readField_eq_some_iff.mpr ⟨hb.1, h⟩]
      simp only [if_neg (show ¬ eciNumber (.illegal low) < 128 by omega),
        if_neg (show ¬ eciNumber (.illegal low) < 192 by omega), if_neg (Nat.not_lt.mpr hb.2), Option.some.injEq,
        EciDesignator.illegal.injEq]
      apply BitVec.eq_of_toNat_eq
      simp only [eciNumber, BitVec.toNat_ofNat]
      omega

/-! ## Operands -/

/-- The mode value of a segment instruction (R131); a command has none. -/
def modeOf : Instr → Nat
  | .terminator => 0
  | .numeric _ _ => 1
  | .alphanumeric _ _ => 2
  | .structuredAppend _ _ => 3
  | .byte _ => 4
  | .fnc1First => 5
  | .reservedMode6 => 6
  | .eci _ => 7
  | .kanji _ => 8
  | .fnc1Second _ => 9
  | .reservedModeA => 10
  | .reservedModeB => 11
  | .reservedModeC => 12
  | .hanzi _ _ => 13
  | .reservedModeE => 14
  | .reservedModeF => 15
  | .nop | .decode | .binarize | .detect | .decodesym | .rsdecode | .parsebits | .clear => 16
  | .reservedCmd8 | .reservedCmd9 | .reservedCmdA | .reservedCmdB => 16
  | .reservedCmdC | .reservedCmdD | .reservedCmdE | .reservedCmdF | .reservedCmdNonzeroUpper _ _ => 16

/-- The bits of an encoding after the mode indicator. -/
def operandBits (t : Tier) : Instr → List Bool
  | .numeric c gs => fieldBits (countWidth .numeric t) c ++ numGroupBits c gs
  | .alphanumeric c gs => fieldBits (countWidth .alphanumeric t) c ++ alnumGroupBits c gs
  | .structuredAppend q r => fieldBits 8 q.toNat ++ fieldBits 8 r.toNat
  | .byte p => fieldBits (countWidth .byte t) p.length ++ p.flatMap fun b => fieldBits 8 b.toNat
  | .eci d => eciDesignatorBits d
  | .kanji k => fieldBits (countWidth .kanji t) k.length ++ k.flatMap fun x => fieldBits 13 x.toNat
  | .fnc1Second a => fieldBits 8 a.toNat
  | .hanzi subset k =>
    fieldBits 4 subset.toNat ++
      if subset = 1 then fieldBits (countWidth .hanzi t) k.length ++ k.flatMap fun x => fieldBits 13 x.toNat else []
  | .terminator | .fnc1First | .reservedMode6 | .reservedModeA | .reservedModeB => []
  | .reservedModeC | .reservedModeE | .reservedModeF => []
  | .nop | .decode | .binarize | .detect | .decodesym | .rsdecode | .parsebits | .clear => []
  | .reservedCmd8 | .reservedCmd9 | .reservedCmdA | .reservedCmdB => []
  | .reservedCmdC | .reservedCmdD | .reservedCmdE | .reservedCmdF | .reservedCmdNonzeroUpper _ _ => []

/-- The encoding of a segment: its mode indicator, then its operands (R130). -/
theorem encode_segment {i : Instr} (t : Tier) (h : i.isCommand = false) :
    encode t i = .bits (fieldBits 4 (modeOf i) ++ operandBits t i) := by
  cases i <;> simp only [Instr.isCommand, reduceCtorEq] at h <;>
    simp only [encode, modeOf, operandBits, List.append_nil, List.append_assoc]

/-- The bytes or codes of a counted payload are read exactly where their bits stand. -/
theorem readFields_bitVec_iff {bit : Nat → Bool} {stop n k pos : Nat} {p : List (BitVec n)} (hpos : pos ≤ stop) :
    (∃ l, readFields bit stop n k pos = some l ∧ l.map (BitVec.ofNat n) = p) ↔
      p.length = k ∧ Stands bit stop pos (p.flatMap fun x => fieldBits n x.toNat) := by
  have hflat : (p.flatMap fun x => fieldBits n x.toNat) = (p.map BitVec.toNat).flatMap (fieldBits n) := by
    rw [List.flatMap_map]
  rw [hflat]
  constructor
  · rintro ⟨l, hl, rfl⟩
    obtain ⟨hlen, hlt, hs⟩ := (readFields_eq_some_iff hpos).mp hl
    have hback : (l.map (BitVec.ofNat n)).map BitVec.toNat = l := by
      rw [List.map_map]
      exact (List.map_congr_left fun x hx => by simp [Nat.mod_eq_of_lt (hlt x hx)]).trans (List.map_id l)
    rw [hback, List.length_map]
    exact ⟨hlen, hs⟩
  · rintro ⟨hlen, hs⟩
    refine ⟨p.map BitVec.toNat, (readFields_eq_some_iff hpos).mpr ⟨by simpa using hlen, ?_, hs⟩, by simp [Function.comp_def]⟩
    intro x hx
    obtain ⟨y, -, rfl⟩ := List.mem_map.mp hx
    exact y.isLt

/-- A field that fits stands exactly where it is read. -/
theorem readField_of_stands {bit : Nat → Bool} {stop pos n v : Nat} (hv : v < 2 ^ n)
    (h : Stands bit stop pos (fieldBits n v)) : readField bit stop pos n = some v :=
  readField_eq_some_iff.mpr ⟨hv, h⟩

/-- What the operand reader returns is well formed, of the mode asked for, and its operand bits stand at the cursor. -/
theorem stands_of_readOperands {t : Tier} {bit : Nat → Bool} {stop m pos : Nat} {i : Instr} (hm : m < 16)
    (hpos : pos ≤ stop) (h : readOperands t bit stop m pos = some i) :
    i.isCommand = false ∧ i.wf t = true ∧ modeOf i = m ∧ Stands bit stop pos (operandBits t i) := by
  have hnil : Stands bit stop pos [] := stands_nil.mpr hpos
  unfold readOperands at h
  split at h
  · cases h; exact ⟨rfl, rfl, rfl, hnil⟩
  · split at h
    · cases h
    rename_i c hc
    obtain ⟨gs, hgs, rfl⟩ := Option.map_eq_some_iff.mp h
    obtain ⟨hlt, hcount⟩ := readField_eq_some_iff.mp hc
    obtain ⟨hok, hs⟩ := (readNumGroups_eq_some_iff (room_of_readField hc)).mp hgs
    exact ⟨rfl, by simp [Instr.wf, hlt, hok], rfl, stands_append.mpr ⟨hcount, by simpa using hs⟩⟩
  · split at h
    · cases h
    rename_i c hc
    obtain ⟨gs, hgs, rfl⟩ := Option.map_eq_some_iff.mp h
    obtain ⟨hlt, hcount⟩ := readField_eq_some_iff.mp hc
    obtain ⟨hok, hs⟩ := (readAlnumGroups_eq_some_iff (room_of_readField hc)).mp hgs
    exact ⟨rfl, by simp [Instr.wf, hlt, hok], rfl, stands_append.mpr ⟨hcount, by simpa using hs⟩⟩
  · split at h
    · rename_i q r hq hr
      cases h
      obtain ⟨hqlt, hqs⟩ := readField_eq_some_iff.mp hq
      obtain ⟨hrlt, hrs⟩ := readField_eq_some_iff.mp hr
      refine ⟨rfl, rfl, rfl, ?_⟩
      simp only [operandBits, BitVec.toNat_ofNat, Nat.mod_eq_of_lt hqlt, Nat.mod_eq_of_lt hrlt]
      exact stands_append.mpr ⟨hqs, by simpa using hrs⟩
    · cases h
  · split at h
    · cases h
    rename_i c hc
    obtain ⟨l, hl, rfl⟩ := Option.map_eq_some_iff.mp h
    obtain ⟨hlt, hcount⟩ := readField_eq_some_iff.mp hc
    obtain ⟨hlen, hs⟩ := (readFields_bitVec_iff (room_of_readField hc)).mp ⟨l, hl, rfl⟩
    refine ⟨rfl, by simpa [Instr.wf, hlen] using hlt, rfl, ?_⟩
    simp only [operandBits, hlen]
    exact stands_append.mpr ⟨hcount, by simpa using hs⟩
  · cases h; exact ⟨rfl, rfl, rfl, hnil⟩
  · cases h; exact ⟨rfl, rfl, rfl, hnil⟩
  · obtain ⟨d, hd, rfl⟩ := Option.map_eq_some_iff.mp h
    exact ⟨rfl, rfl, rfl, readEci_eq_some_iff.mp hd⟩
  · split at h
    · cases h
    rename_i c hc
    obtain ⟨l, hl, rfl⟩ := Option.map_eq_some_iff.mp h
    obtain ⟨hlt, hcount⟩ := readField_eq_some_iff.mp hc
    obtain ⟨hlen, hs⟩ := (readFields_bitVec_iff (room_of_readField hc)).mp ⟨l, hl, rfl⟩
    refine ⟨rfl, by simpa [Instr.wf, hlen] using hlt, rfl, ?_⟩
    simp only [operandBits, hlen]
    exact stands_append.mpr ⟨hcount, by simpa using hs⟩
  · obtain ⟨a, ha, rfl⟩ := Option.map_eq_some_iff.mp h
    obtain ⟨hlt, hs⟩ := readField_eq_some_iff.mp ha
    refine ⟨rfl, rfl, rfl, ?_⟩
    simpa only [operandBits, BitVec.toNat_ofNat, Nat.mod_eq_of_lt hlt] using hs
  · cases h; exact ⟨rfl, rfl, rfl, hnil⟩
  · cases h; exact ⟨rfl, rfl, rfl, hnil⟩
  · cases h; exact ⟨rfl, rfl, rfl, hnil⟩
  · split at h
    · cases h
    rename_i subset hsub
    obtain ⟨hsublt, hsubs⟩ := readField_eq_some_iff.mp hsub
    split at h
    · rename_i hne
      cases h
      have hne : BitVec.ofNat 4 subset ≠ 1 := fun he => hne (by
        have hval := congrArg BitVec.toNat he
        simp only [BitVec.toNat_ofNat, Nat.mod_eq_of_lt hsublt] at hval
        exact hval)
      refine ⟨rfl, by simp [Instr.wf], rfl, ?_⟩
      simpa only [operandBits, if_neg hne, List.append_nil, BitVec.toNat_ofNat, Nat.mod_eq_of_lt hsublt] using hsubs
    · rename_i hone
      rw [not_not] at hone
      subst hone
      split at h
      · cases h
      rename_i c hc
      obtain ⟨l, hl, rfl⟩ := Option.map_eq_some_iff.mp h
      obtain ⟨hlt, hcount⟩ := readField_eq_some_iff.mp hc
      obtain ⟨hlen, hs⟩ := (readFields_bitVec_iff (room_of_readField hc)).mp ⟨l, hl, rfl⟩
      refine ⟨rfl, by simpa [Instr.wf, hlen] using hlt, rfl, ?_⟩
      simp only [operandBits, hlen, if_true]
      exact stands_append.mpr ⟨hsubs, by simpa using stands_append.mpr ⟨hcount, by simpa using hs⟩⟩
  · cases h; exact ⟨rfl, rfl, rfl, hnil⟩
  · cases h
    exact ⟨rfl, rfl, by simp only [modeOf]; grind, hnil⟩

/-- The operand reader returns the instruction whose operand bits stand at the cursor. -/
theorem readOperands_of_stands {t : Tier} {bit : Nat → Bool} {stop pos : Nat} {i : Instr} (hi : i.isCommand = false)
    (hwf : i.wf t = true) (h : Stands bit stop pos (operandBits t i)) :
    readOperands t bit stop (modeOf i) pos = some i := by
  cases i with
  | terminator | fnc1First | reservedMode6 | reservedModeA | reservedModeB | reservedModeC | reservedModeE
  | reservedModeF => rfl
  | numeric c gs =>
    obtain ⟨hc, hok⟩ := Bool.and_eq_true_iff.mp hwf
    obtain ⟨hcount, hgs⟩ := stands_append.mp h
    rw [fieldBits_length] at hgs
    have hread := readField_of_stands (of_decide_eq_true hc) hcount
    simp only [modeOf, readOperands, hread,
      (readNumGroups_eq_some_iff (room_of_readField hread)).mpr ⟨hok, hgs⟩, Option.map_some]
  | alphanumeric c gs =>
    obtain ⟨hc, hok⟩ := Bool.and_eq_true_iff.mp hwf
    obtain ⟨hcount, hgs⟩ := stands_append.mp h
    rw [fieldBits_length] at hgs
    have hread := readField_of_stands (of_decide_eq_true hc) hcount
    simp only [modeOf, readOperands, hread,
      (readAlnumGroups_eq_some_iff (room_of_readField hread)).mpr ⟨hok, hgs⟩, Option.map_some]
  | structuredAppend q r =>
    obtain ⟨hq, hr⟩ := stands_append.mp h
    rw [fieldBits_length] at hr
    simp only [modeOf, readOperands, readField_of_stands q.isLt hq, readField_of_stands r.isLt hr, BitVec.ofNat_toNat,
      BitVec.setWidth_eq]
  | byte p =>
    obtain ⟨hcount, hp⟩ := stands_append.mp h
    rw [fieldBits_length] at hp
    have hread := readField_of_stands (of_decide_eq_true hwf) hcount
    obtain ⟨l, hl, rfl⟩ := (readFields_bitVec_iff (room_of_readField hread)).mpr ⟨rfl, hp⟩
    simp only [modeOf, readOperands, hread, hl, Option.map_some]
  | eci d => simp only [modeOf, readOperands, readEci_eq_some_iff.mpr h, Option.map_some]
  | kanji k =>
    obtain ⟨hcount, hk⟩ := stands_append.mp h
    rw [fieldBits_length] at hk
    have hread := readField_of_stands (of_decide_eq_true hwf) hcount
    obtain ⟨l, hl, rfl⟩ := (readFields_bitVec_iff (room_of_readField hread)).mpr ⟨rfl, hk⟩
    simp only [modeOf, readOperands, hread, hl, Option.map_some]
  | fnc1Second a =>
    simp only [modeOf, readOperands, readField_of_stands a.isLt h, Option.map_some, BitVec.ofNat_toNat,
      BitVec.setWidth_eq]
  | hanzi subset k =>
    obtain ⟨hsub, hk⟩ := stands_append.mp h
    rw [fieldBits_length] at hk
    by_cases hone : subset = 1
    · subst hone
      rw [Instr.wf, if_pos rfl] at hwf
      rw [if_pos rfl] at hk
      obtain ⟨hcount, hk⟩ := stands_append.mp hk
      rw [fieldBits_length] at hk
      have hread := readField_of_stands (of_decide_eq_true hwf) hcount
      obtain ⟨l, hl, rfl⟩ := (readFields_bitVec_iff (room_of_readField hread)).mpr ⟨rfl, hk⟩
      simp only [modeOf, readOperands, readField_of_stands (BitVec.isLt _) hsub, hread, hl, Option.map_some]
      rfl
    · rw [Instr.wf, if_neg hone, List.isEmpty_iff] at hwf
      subst hwf
      have hne : subset.toNat ≠ 1 := fun he => hone (BitVec.eq_of_toNat_eq he)
      simp only [modeOf, readOperands, readField_of_stands subset.isLt hsub, if_pos hne, BitVec.ofNat_toNat,
        BitVec.setWidth_eq]
  | _ => cases hi

theorem modeOf_lt {i : Instr} (hi : i.isCommand = false) : modeOf i < 2 ^ 4 := by
  cases i <;> cases hi <;> simp only [modeOf] <;> omega

/-- R130 to R142: the decoder reads an instruction exactly where the bits of its encoding stand. -/
theorem decodeSegment_eq_ok_iff {t : Tier} {bit : Nat → Bool} {stop pos : Nat} {i : Instr} :
    decodeSegment t bit stop pos = .ok i ↔
      i.isCommand = false ∧ i.wf t = true ∧ Stands bit stop pos (fieldBits 4 (modeOf i) ++ operandBits t i) := by
  have hlen : (streamBits bit pos 4).length = 4 := by simp [streamBits]
  rw [stands_append, fieldBits_length]
  constructor
  · intro h
    have hroom := decodeSegment_room t bit stop pos i h
    have hmode : fieldValue (streamBits bit pos 4) < 16 := by simpa [hlen] using fieldValue_lt (streamBits bit pos 4)
    simp only [decodeSegment, if_neg (Nat.not_lt.mpr hroom)] at h
    split at h
    · cases h
    rename_i j hread
    cases h
    obtain ⟨hi, hwf, hm, hs⟩ := stands_of_readOperands hmode hroom hread
    have hfield : readField bit stop pos 4 = some (modeOf i) := by
      rw [readField, if_neg (by omega), hm]
    exact ⟨hi, hwf, (readField_eq_some_iff.mp hfield).2, hs⟩
  · rintro ⟨hi, hwf, hmode, hs⟩
    have hread := readField_of_stands (modeOf_lt hi) hmode
    have hroom := room_of_readField hread
    rw [readField, if_neg (by omega), Option.some.injEq] at hread
    simp only [decodeSegment, if_neg (Nat.not_lt.mpr hroom), hread, readOperands_of_stands hi hwf hs]

/-! ## The round trip -/

/-- Settles O2: the encoding of a segment is what `decodeSegment_eq_ok_iff` asks to stand at the cursor. -/
theorem segmentsRoundTrip : Obligations.SegmentsRoundTrip := by
  intro t i b bit pos stop hi hwf hb hbits hroom
  rw [encode_segment t hi] at hb
  cases hb
  exact decodeSegment_eq_ok_iff.mpr ⟨hi, hwf, hroom, hbits⟩

/-- Settles O3: the other direction of `decodeSegment_eq_ok_iff`. -/
theorem decodedSegmentsStandInStream : Obligations.DecodedSegmentsStandInStream := by
  intro t i bit pos stop h
  obtain ⟨hi, hwf, hroom, hbits⟩ := decodeSegment_eq_ok_iff.mp h
  exact ⟨hi, hwf, _, encode_segment t hi, hroom, hbits⟩

end Sys2Proof.Proofs
end

section
/-!
PROOFS: what one step of the instruction loop can do (`46_bitstream_parser.md` R421 to R449). Every segment instruction ends
the loop, raises, or appends; one that appends moves the cursor by the length of its encoding, which stands in the data.
-/

namespace Sys2Proof.Proofs

open Sys2Proof Sys2Proof.Machine Sys2Proof.Laws

/-! ## Lengths of encodings -/

/-- Digits that give a text take the bits their count says: no group stops the reading early. -/
theorem numGroupBits_length_of_text {c : Nat} {gs : List Nat} {bs : List Byte} (h : numericText c gs = .ok bs) :
    (numGroupBits c gs).length = payloadBits .numeric c := by
  induction c, gs using numGroupBits.induct generalizing bs with
  | case1 gs => rfl
  | case2 x xs => simp [numGroupBits, payloadBits]
  | case3 => simp [numericText] at h
  | case4 x xs => simp [numGroupBits, payloadBits]
  | case5 => simp [numericText] at h
  | case6 c x xs ih =>
    simp only [numericText] at h
    split at h
    · cases h
    obtain ⟨t, ht⟩ : ∃ t, numericText c xs = .ok t := by
      cases hr : numericText c xs with
      | error e => simp [hr, Except.map] at h
      | ok t => exact ⟨t, rfl⟩
    have hrest := ih ht
    simp only [numGroupBits, List.length_append, fieldBits_length, hrest, payloadBits]
    rw [show c.succ.succ.succ = c + 3 from rfl, Nat.add_mod_right]
    omega
  | case7 c => simp [numericText] at h

theorem alnumGroupBits_length_of_text {c : Nat} {gs : List Nat} {bs : List Byte} (h : alnumText c gs = .ok bs) :
    (alnumGroupBits c gs).length = payloadBits .alphanumeric c := by
  induction c, gs using alnumGroupBits.induct generalizing bs with
  | case1 gs => rfl
  | case2 x xs => simp [alnumGroupBits, payloadBits]
  | case3 => simp [alnumText] at h
  | case4 c x xs ih =>
    simp only [alnumText] at h
    split at h
    · cases h
    obtain ⟨t, ht⟩ : ∃ t, alnumText c xs = .ok t := by
      cases hr : alnumText c xs with
      | error e => simp [hr, Except.map] at h
      | ok t => exact ⟨t, rfl⟩
    have hrest := ih ht
    simp only [alnumGroupBits, List.length_append, fieldBits_length, hrest, payloadBits]
    omega
  | case5 c => simp [alnumText] at h

/-- The only exceptions a text can raise are those of the stage BITS. -/
theorem excStage_of_numericText {c : Nat} {gs : List Nat} {e : Exc} (h : numericText c gs = .error e) :
    excStage e = .bits := by
  induction c, gs using numGroupBits.induct with
  | case1 gs => simp [numericText] at h
  | case2 x xs | case4 x xs =>
    simp only [numericText] at h
    split at h <;> cases h
    rfl
  | case3 | case5 => simp only [numericText] at h; cases h; rfl
  | case6 c x xs ih =>
    simp only [numericText] at h
    split at h
    · cases h; rfl
    cases hr : numericText c xs with
    | error e' => simp only [hr, Except.map, Except.error.injEq] at h; exact ih (h ▸ hr)
    | ok t => simp [hr, Except.map] at h
  | case7 c => simp only [numericText] at h; cases h; rfl

theorem excStage_of_alnumText {c : Nat} {gs : List Nat} {e : Exc} (h : alnumText c gs = .error e) :
    excStage e = .bits := by
  induction c, gs using alnumGroupBits.induct with
  | case1 gs => simp [alnumText] at h
  | case2 x xs =>
    simp only [alnumText] at h
    split at h <;> cases h
    rfl
  | case3 => simp only [alnumText] at h; cases h; rfl
  | case4 c x xs ih =>
    simp only [alnumText] at h
    split at h
    · cases h; rfl
    cases hr : alnumText c xs with
    | error e' => simp only [hr, Except.map, Except.error.injEq] at h; exact ih (h ▸ hr)
    | ok t => simp [hr, Except.map] at h
  | case5 c => simp only [alnumText] at h; cases h; rfl

/-! ## Appending instructions -/

/-- What an instruction of `n` bits that appends `len` bytes of text and one entry leaves, as far as the sequencer is
concerned: the bit-stream state and the two memories differ, nothing else. -/
structure Appended (s t : State) (n len : Nat) : Prop where
  frame : t = { s with bits := t.bits, mem := t.mem }
  running : t.bits.running = s.bits.running
  ver : t.bits.ver = s.bits.ver
  ndata : t.bits.ndata = s.bits.ndata
  bitpos : t.bits.bitpos = s.bits.bitpos + BitVec.ofNat 15 n
  tlen : t.bits.tlen = s.bits.tlen + len
  nseg : t.bits.nseg = s.bits.nseg + 1
  stored : ∃ text entry, t.mem =
    storeBytes s.cfg (storeBytes s.cfg s.mem .text s.bits.tlen text) .seg (16 * s.bits.nseg) entry

theorem textSegment_appended (s : State) (mode cskind : Nat) (value : Word) (bs : List Byte) (n : Nat) :
    Appended s (textSegment s mode cskind value bs n) n bs.length :=
  ⟨rfl, rfl, rfl, rfl, rfl, rfl, rfl, _, _, rfl⟩

theorem bareSegment_appended (s : State) (b : BitsState) (mode : Nat) (value : Word) (n : Nat)
    (hrun : b.running = s.bits.running) (hver : b.ver = s.bits.ver) (hndata : b.ndata = s.bits.ndata)
    (hpos : b.bitpos = s.bits.bitpos) (htlen : b.tlen = s.bits.tlen) (hnseg : b.nseg = s.bits.nseg) :
    Appended s (bareSegment { s with bits := b } mode value n) n 0 where
  frame := rfl
  running := hrun
  ver := hver
  ndata := hndata
  bitpos := by simp [hpos]
  tlen := by simp [htlen]
  nseg := by simp [hnseg]
  stored := ⟨[], segEntry mode csDefault value b.tlen 0, by simp [hnseg, storeBytes]⟩

/-- What a segment instruction can do (R430 to R449). -/
inductive SegmentEffect (s : State) (i : Instr) : State → Prop
  | ends (h : i = .terminator) : SegmentEffect s i (finishBits (advance s 4))
  | raises (e : Exc) (h : excStage e = .bits) : SegmentEffect s i (raise s e)
  | appends (t : State) (len : Nat) (h : Appended s t (segmentLength (curTier s) i) len)
      (hlen : 4 + (operandBits (curTier s) i).length = segmentLength (curTier s) i)
      (htext : 10 * len ≤ 3 * segmentLength (curTier s) i) : SegmentEffect s i t

theorem exec_segment_effect {i : Instr} (s : State) (hi : i.isCommand = false) :
    ∃ t, exec i s = .next t ∧ SegmentEffect s i t := by
  cases i with
  | terminator => exact ⟨_, rfl, .ends rfl⟩
  | numeric c gs =>
    refine ⟨_, rfl, ?_⟩
    cases htext : numericText c gs with
    | error e => exact .raises e (excStage_of_numericText htext)
    | ok bs =>
      have hlen := numericText_length c gs bs htext
      refine .appends _ _ (textSegment_appended ..) ?_ ?_
      · simp only [operandBits, segmentLength, List.length_append, fieldBits_length, numGroupBits_length_of_text htext]
        omega
      · simp only [segmentLength, payloadBits, hlen]
        split <;> omega
  | alphanumeric c gs =>
    refine ⟨_, rfl, ?_⟩
    cases htext : alnumText c gs with
    | error e => exact .raises e (excStage_of_alnumText htext)
    | ok bs =>
      have hlen := alnumText_length c gs bs htext
      refine .appends _ _ (textSegment_appended ..) ?_ ?_
      · simp only [operandBits, segmentLength, List.length_append, fieldBits_length, alnumGroupBits_length_of_text htext]
        omega
      · simp only [segmentLength, payloadBits, hlen]
        omega
  | structuredAppend q r =>
    exact ⟨_, rfl, .appends _ 0 (bareSegment_appended _ _ _ _ _ rfl rfl rfl rfl rfl rfl)
      (by simp [operandBits, segmentLength]) (Nat.zero_le _)⟩
  | byte p =>
    refine ⟨_, rfl, .appends _ _ (textSegment_appended ..) ?_ ?_⟩
    · simp only [operandBits, segmentLength, List.length_append, fieldBits_length, flatMap_fieldBits_length, payloadBits]
      omega
    · simp only [segmentLength, payloadBits]
      omega
  | fnc1First =>
    exact ⟨_, rfl, .appends _ 0 (bareSegment_appended _ _ _ _ _ rfl rfl rfl rfl rfl rfl)
      (by simp [operandBits, segmentLength]) (Nat.zero_le _)⟩
  | eci d =>
    simp only [exec, execEci]
    cases hv : eciValue d with
    | none => exact ⟨_, rfl, .raises .feEci rfl⟩
    | some e =>
      exact ⟨_, rfl, .appends _ 0 (bareSegment_appended _ _ _ _ _ rfl rfl rfl rfl rfl rfl)
        (by simp [operandBits, segmentLength]) (Nat.zero_le _)⟩
  | kanji k =>
    refine ⟨_, rfl, .appends _ _ (textSegment_appended ..) ?_ ?_⟩
    · simp only [operandBits, segmentLength, List.length_append, fieldBits_length, flatMap_fieldBits_length, payloadBits]
      omega
    · simp only [segmentLength, payloadBits, kanjiText_length]
      omega
  | fnc1Second a =>
    exact ⟨_, rfl, .appends _ 0 (bareSegment_appended _ _ _ _ _ rfl rfl rfl rfl rfl rfl)
      (by simp [operandBits, segmentLength]) (Nat.zero_le _)⟩
  | hanzi subset k =>
    simp only [exec, execHanzi]
    split
    · rename_i hone
      refine ⟨_, rfl, .appends _ _ (textSegment_appended ..) ?_ ?_⟩
      · simp only [operandBits, if_pos hone, segmentLength, List.length_append, fieldBits_length,
          flatMap_fieldBits_length, payloadBits]
        omega
      · simp only [segmentLength, payloadBits, hanziText_length]
        omega
    · exact ⟨_, rfl, .raises .feHanziSubset rfl⟩
  | reservedMode6 | reservedModeA | reservedModeB | reservedModeC | reservedModeE | reservedModeF =>
    exact ⟨_, rfl, .raises .feMode rfl⟩
  | _ => cases hi

/-! ## A step of the loop -/

/-- What a step of the instruction loop can do (R421, R422): the loop ends, at the end of the data or after a terminator of
`n` bits; an exception is raised; or an instruction of `n` bits appends. -/
inductive LoopStep (s : State) : State → Prop
  | ends (n : Nat) (hroom : n = 0 ∨ s.bits.bitpos.toNat + n ≤ streamEnd s) : LoopStep s (finishBits (advance s n))
  | raises (e : Exc) (h : excStage e = .bits) : LoopStep s (raise s e)
  | appends (t : State) (n len : Nat) (h : Appended s t n len) (hroom : s.bits.bitpos.toNat + n ≤ streamEnd s)
      (hn : 4 ≤ n) (htext : 10 * len ≤ 3 * n) : LoopStep s t

@[simp] theorem advance_zero (s : State) : advance s 0 = s := by simp [advance]

theorem segmentStep_loopStep (s : State) : ∃ t, segmentStep s = .next t ∧ LoopStep s t := by
  obtain ⟨i, hfetch, hstep⟩ | ⟨-, hstep⟩ | ⟨-, hstep⟩ := segmentStep_cases s
  · obtain ⟨hi, -, hroom, -⟩ := decodeSegment_eq_ok_iff.mp hfetch
    rw [List.length_append, fieldBits_length] at hroom
    obtain ⟨t, hexec, heffect⟩ := exec_segment_effect s hi
    refine ⟨t, hstep.trans hexec, ?_⟩
    cases heffect with
    | ends h => subst h; exact .ends 4 (.inr hroom)
    | raises e h => exact .raises e h
    | appends t len h hlen htext =>
      rw [curTier] at hlen
      exact .appends t _ len h (hlen ▸ hroom) (by rw [curTier]; omega) htext
  · exact ⟨_, hstep, by simpa using LoopStep.ends (s := s) 0 (.inl rfl)⟩
  · exact ⟨_, hstep, .raises .feTruncated rfl⟩

end Sys2Proof.Proofs
end

section
/-!
PROOFS about the version table of `44_matrix_parser.md` R343, R344, R355: what its 160 block layouts have in common. The
table is printed, so this is a check of its rows.
-/

namespace Sys2Proof.Proofs

open Sys2Proof Sys2Proof.Machine Sys2Proof.Laws

/-- What R343 and R344 ask of one version at one level. -/
def LayoutConsistent (v : Nat) (e : BitVec 2) : Prop :=
  (blockLengths (ecLayout v e)).sum + (blockLengths (ecLayout v e)).length * (ecLayout v e).ec =
      (versionInfo v).total ∧
    (blockLengths (ecLayout v e)).sum ≤ 2956 ∧
    (∀ n ∈ blockLengths (ecLayout v e),
      n = (blockLengths (ecLayout v e)).headD 0 ∨ n = (blockLengths (ecLayout v e)).headD 0 + 1) ∧
    (2 ≤ v → (versionInfo v).align.getLastD 0 = 17 + 4 * v - 7)

theorem layoutConsistent_rows : ∀ v, v < 40 → ∀ e : BitVec 2, LayoutConsistent (v + 1) e := by
  unfold LayoutConsistent
  decide +kernel

theorem layoutConsistent {v : Nat} (e : BitVec 2) (h1 : 1 ≤ v) (h40 : v ≤ 40) : LayoutConsistent v e := by
  have h := layoutConsistent_rows (v - 1) (by omega) e
  rwa [Nat.sub_add_cancel h1] at h

/-- Settles O51: every row of the table, checked. -/
theorem versionTableConsistent : Obligations.VersionTableConsistent := fun _ e h1 h40 => layoutConsistent e h1 h40

theorem versionTable_length : versionTable.length = 40 := by decide

/-- A number that is no version has no blocks. -/
theorem blockLengths_eq_nil {v : Nat} (e : BitVec 2) (h : v = 0 ∨ 40 < v) : blockLengths (ecLayout v e) = [] := by
  have hinfo : versionInfo v = ⟨[], 0, ⟨0, []⟩, ⟨0, []⟩, ⟨0, []⟩, ⟨0, []⟩⟩ := by
    unfold versionInfo
    split
    · rfl
    · exact List.getD_eq_default _ _ (by rw [versionTable_length]; omega)
  unfold ecLayout
  rw [hinfo]
  split <;> rfl

/-- The data part of a symbol of any version number fits `DATA` (R44). -/
theorem blockLengths_sum_le (v : Nat) (e : BitVec 2) : (blockLengths (ecLayout v e)).sum ≤ 2956 := by
  by_cases h : 1 ≤ v ∧ v ≤ 40
  · exact (layoutConsistent e h.1 h.2).2.1
  · rw [blockLengths_eq_nil e (by omega)]
    exact Nat.zero_le _

end Sys2Proof.Proofs
end

section
/-!
PROOFS: what one step of the engine can do (`47_sequencer_commands.md` R472): a stage advances or raises an exception of its
own, BITS is entered, or the end step is taken.
-/

namespace Sys2Proof.Proofs

open Sys2Proof Sys2Proof.Machine Sys2Proof.Laws

/-! ## The exceptions of each stage (R501) -/

theorem excStage_of_binarize {cfg : Config} {lum : Nat → Nat → Nat} {w h : Nat} {e : Exc}
    (he : binarize cfg lum w h = .error e) : excStage e = .bin := by
  unfold binarize at he
  split at he
  · cases he; rfl
  split at he
  · cases he
  split at he
  · rename_i e' hgt
    cases he
    simp only [globalThreshold] at hgt
    split at hgt <;> cases hgt
    rfl
  · cases he

theorem excStage_of_moduleSize {nf : NumFmt} {blk : Nat → Nat → Bool} {w h : Nat} {o : Ordered} {e : Exc}
    (he : moduleSize nf blk w h o = .error e) : excStage e = .det := by
  unfold moduleSize at he
  split at he
  · dsimp only at he
    split at he <;> cases he
    rfl
  · cases he; rfl

theorem excStage_of_dimension {nf : NumFmt} {o : Ordered} {ms : F64} {e : Exc} (he : dimension nf o ms = .error e) :
    excStage e = .det := by
  unfold dimension at he
  split at he
  · cases he; rfl
  · split at he <;> cases he
    rfl

theorem excStage_of_squareToQuad {nf : NumFmt} {x0 y0 x1 y1 x2 y2 x3 y3 : F64} {e : Exc}
    (he : squareToQuad nf x0 y0 x1 y1 x2 y2 x3 y3 = .error e) : excStage e = .det := by
  unfold squareToQuad at he
  dsimp only at he
  split at he
  · cases he
  · split at he <;> cases he
    rfl

theorem excStage_of_symbolTransform {nf : NumFmt} {o : Ordered} {dim : Nat} {ap : Option Pattern} {e : Exc}
    (he : symbolTransform nf o dim ap = .error e) : excStage e = .det := by
  unfold symbolTransform at he
  dsimp only at he
  split at he
  · rename_i hq
    cases he
    exact excStage_of_squareToQuad hq
  · split at he
    · rename_i hq
      cases he
      exact excStage_of_squareToQuad hq
    · cases he

theorem excStage_of_locate {cfg : Config} {blk : Nat → Nat → Bool} {w h : Nat} {cs : List Candidate} {o : Ordered}
    {e : Exc} (he : (locate cfg blk w h cs o).result = .error e) : excStage e = .det := by
  unfold locate at he
  split at he
  · rename_i hms
    cases he
    exact excStage_of_moduleSize hms
  split at he
  · rename_i hdim
    cases he
    exact excStage_of_dimension hdim
  dsimp only at he
  split at he
  · rename_i hxf
    cases he
    exact excStage_of_symbolTransform hxf
  · split at he <;> cases he
    rfl

theorem excStage_of_detect {cfg : Config} {blk : Nat → Nat → Bool} {w h : Nat} {th : Bool} {e : Exc}
    (he : (detect cfg blk w h th).result = .error e) : excStage e = .det := by
  unfold detect at he
  dsimp only at he
  split at he
  · cases he; rfl
  · exact excStage_of_locate he

theorem excStage_of_readVersion {cfg : Config} {mod : Nat → Nat → Bool} {dim : Nat} {e : Exc}
    (he : readVersion cfg mod dim = .error e) : excStage e = .parse := by
  unfold readVersion at he
  dsimp only at he
  split at he
  · cases he
  split at he
  · cases he
  split at he <;> cases he
  rfl

theorem excStage_of_parseSymbol {cfg : Config} {mod : Nat → Nat → Bool} {dim : Nat} {e : Exc}
    (he : parseSymbol cfg mod dim = .error e) : excStage e = .parse := by
  unfold parseSymbol at he
  split at he
  · cases he; rfl
  split at he
  · rename_i hv
    cases he
    exact excStage_of_readVersion hv
  · cases he

theorem excStage_of_readCodewords {mod : Nat → Nat → Bool} {dim ver mask : Nat} {e : Exc}
    (he : readCodewords mod dim ver mask = .error e) : excStage e = .readcw := by
  simp only [readCodewords] at he
  split at he <;> cases he
  rfl

theorem excStage_of_correctSymbol {cw : Nat → Byte} {ver : Nat} {ecbits : BitVec 2} {e : Exc}
    (he : correctSymbol cw ver ecbits = .error e) : excStage e = .ec := by
  simp only [correctSymbol] at he
  split at he <;> cases he
  rfl

/-! ## The data of a symbol -/

theorem length_assembleData_le (nds : List Nat) (blocks : List (List Byte)) :
    (assembleData nds blocks).length ≤ nds.sum := by
  unfold assembleData
  induction nds generalizing blocks with
  | nil => simp
  | cons n ns ih =>
    cases blocks with
    | nil => simp
    | cons b bs =>
      have := ih bs
      simp only [List.zipWith_cons_cons, List.flatten_cons, List.length_append, List.length_take, List.sum_cons]
      omega

/-- Whatever EC hands on fits `DATA`. -/
theorem length_data_of_correctSymbol {cw : Nat → Byte} {ver : Nat} {ecbits : BitVec 2} {r : EcOut}
    (h : correctSymbol cw ver ecbits = .ok r) : r.data.length ≤ 2956 := by
  simp only [correctSymbol] at h
  split at h
  · cases h
  · cases h
    exact (length_assembleData_le _ _).trans (blockLengths_sum_le ver ecbits)

/-! ## The engine step -/

/-- What a stage that raises nothing leaves, as far as the sequencer is concerned: the next stage, its pending values, and
bytes of one of the four memories the stages write. -/
structure Advanced (s t : State) : Prop where
  frame : t = { s with
    stage := nextStage s.cmd s.stage, candOvf := t.candOvf, binPath := t.binPath, det := t.det, sym := t.sym, ec := t.ec
    mem := t.mem }
  ndata : s.ec.ndata.toNat ≤ 2956 → t.ec.ndata.toNat ≤ 2956
  stored : ∃ r ∈ [Region.imgbits, .symbits, .cw, .data], ∃ bs, t.mem = storeBytes s.cfg s.mem r 0 bs

/-- What a step of the BUSY engine can do. A stage that raises may have set `CAND_OVF`. -/
inductive EngineStep (s : State) : State → Prop
  | advances (t : State) (h : Advanced s t)
      (hstage : s.stage ∈ [Stage.bin, .det, .parse, .readcw, .ec]) : EngineStep s t
  | raises (ovf : Bool) (e : Exc) (h : excStage e = s.stage)
      (hstage : s.stage ∈ [Stage.bin, .det, .parse, .readcw, .ec]) : EngineStep s (raise { s with candOvf := ovf } e)
  | enters (h : s.stage = .bits) : EngineStep s (enterBits s)
  | finishes (h : s.stage = .fin) : EngineStep s (endStep s)

theorem EngineStep.raises' {s : State} {e : Exc} (h : excStage e = s.stage)
    (hstage : s.stage ∈ [Stage.bin, .det, .parse, .readcw, .ec]) : EngineStep s (raise s e) :=
  .raises s.candOvf e h hstage

theorem stageBin_engineStep {s : State} (h : s.stage = .bin) : EngineStep s (stageBin s) := by
  unfold stageBin
  dsimp only
  split
  · rename_i e he
    exact .raises' ((excStage_of_binarize he).trans h.symm) (by simp [h])
  · exact .advances _ ⟨by simp only [stageDone, h], id, .imgbits, by simp, _, rfl⟩ (by simp [h])

theorem stageDet_engineStep {s : State} (h : s.stage = .det) : EngineStep s (stageDet s) := by
  unfold stageDet
  dsimp only
  split
  · rename_i e he
    exact .raises _ e ((excStage_of_detect he).trans h.symm) (by simp [h])
  · exact .advances _ ⟨by simp only [stageDone, h], id, .symbits, by simp, _, rfl⟩ (by simp [h])

theorem stageParse_engineStep {s : State} (h : s.stage = .parse) : EngineStep s (stageParse s) := by
  unfold stageParse
  split
  · rename_i e he
    exact .raises' ((excStage_of_parseSymbol he).trans h.symm) (by simp [h])
  · exact .advances _ ⟨by simp only [stageDone, h], id, .cw, by simp, [], rfl⟩ (by simp [h])

theorem stageReadcw_engineStep {s : State} (h : s.stage = .readcw) : EngineStep s (stageReadcw s) := by
  unfold stageReadcw
  split
  · rename_i e he
    exact .raises' ((excStage_of_readCodewords he).trans h.symm) (by simp [h])
  · exact .advances _ ⟨by simp only [stageDone, h], id, .cw, by simp, _, rfl⟩ (by simp [h])

theorem stageEc_engineStep {s : State} (h : s.stage = .ec) : EngineStep s (stageEc s) := by
  unfold stageEc
  split
  · unfold stageEcBlock
    split
    · exact .raises' h.symm (by simp [h])
    · exact .advances _ ⟨by simp only [stageDone, h], id, .cw, by simp, _, rfl⟩ (by simp [h])
  · unfold stageEcSymbol
    split
    · rename_i e he
      exact .raises' ((excStage_of_correctSymbol he).trans h.symm) (by simp [h])
    · rename_i r hr
      have hlen := length_data_of_correctSymbol hr
      refine .advances _ ⟨by simp only [stageDone, h], fun _ => ?_, .data, by simp, _, rfl⟩ (by simp [h])
      simp only [stageDone, BitVec.toNat_ofNat]
      omega

/-- R472: a BUSY engine at a stage has one step, and it is one of these. -/
theorem engineStep_of_busy {s : State} (hbusy : s.st = .busy) (hstage : s.stage ≠ .none) :
    ∃ t, engineStep s = .next t ∧ EngineStep s t := by
  unfold engineStep
  rw [if_pos hbusy]
  cases h : s.stage with
  | none => exact absurd h hstage
  | bin => exact ⟨_, rfl, stageBin_engineStep h⟩
  | det => exact ⟨_, rfl, stageDet_engineStep h⟩
  | parse => exact ⟨_, rfl, stageParse_engineStep h⟩
  | readcw => exact ⟨_, rfl, stageReadcw_engineStep h⟩
  | ec => exact ⟨_, rfl, stageEc_engineStep h⟩
  | bits => exact ⟨_, rfl, .enters h⟩
  | fin => exact ⟨_, rfl, .finishes h⟩

theorem engineStep_of_not_busy {s : State} (h : s.st ≠ .busy) : engineStep s = .next s := by
  rw [engineStep, if_neg h]

theorem engineStep_of_busy_none {s : State} (hbusy : s.st = .busy) (h : s.stage = .none) :
    engineStep s = .fault .sequencerStuck := by
  simp [engineStep, hbusy, h]

end Sys2Proof.Proofs
end

section
/-!
PROOFS: the invariant. `MachineInv` is taken apart once, into what it says while BUSY (`BusyInv`) and at rest (`RestInv`);
each thing a step can do then keeps it by one lemma.
-/

namespace Sys2Proof.Proofs

open Sys2Proof Sys2Proof.Machine Sys2Proof.Laws

/-! ## The invariant, by the state of the engine -/

/-- What pass and latched exception say of each other (R56, R476). -/
def PassInv (s : State) : Prop :=
  if s.pass then
    (s.cmd = .decode ∨ s.cmd = .decodesym) ∧ (inDecoder s.stage = true ∨ s.stage = .fin) ∧
      ∃ e, s.exc0 = some e ∧ (excKind e = .format ∨ excKind e = .checksum) ∧ inDecoder (excStage e) = true
  else s.exc0 = none

/-- The invariant of a running command. -/
structure BusyInv (s : State) : Prop where
  legal : s.cfg.legal = true
  memory : memoryOk s = true
  busy : s.st = .busy
  cause : s.cause = none
  res : s.res = {}
  runs : runsStage s.cmd s.stage = true
  check : acceptCheck s.cmd s = none
  pass : PassInv s
  cursor : cursorOk s = true
  loop : s.bits.running = true → s.stage = .bits ∧ s.bits.ndata = dataLength s ∧ s.bits.ver = streamVersion s

/-- No per-attempt state stands (R20). -/
def Quiet (s : State) : Prop :=
  s.cmd = .none ∧ s.exc0 = none ∧ s.binPath = false ∧ s.det = {} ∧ s.sym = {} ∧ s.ec = {} ∧ s.bits = {}

/-- The invariant of a machine that runs no command. -/
structure RestInv (s : State) : Prop where
  legal : s.cfg.legal = true
  memory : memoryOk s = true
  rest : s.st ≠ .busy
  outcome : outcomeOk s = true
  quiet : Quiet s

theorem freshInternal_eq_self_iff (s : State) : freshInternal s .none = s ↔ Quiet s := by
  cases s
  simp only [freshInternal, Quiet, State.mk.injEq, true_and, and_true, eq_comm]

theorem passOk_iff_of_busy {s : State} (h : s.st = .busy) : passOk s = true ↔ PassInv s := by
  unfold passOk PassInv
  rw [h]
  cases s.pass
  · simp
  · cases s.exc0 <;> simp [and_assoc]

theorem outcomeOk_iff_of_busy {s : State} (h : s.st = .busy) :
    outcomeOk s = true ↔ s.cause = none ∧ s.res = {} ∧ runsStage s.cmd s.stage = true ∧ acceptCheck s.cmd s = none := by
  simp [outcomeOk, h, and_assoc]

theorem machineInv_iff_busyInv {s : State} (h : s.st = .busy) : MachineInv s ↔ BusyInv s := by
  unfold MachineInv
  rw [outcomeOk_iff_of_busy h, passOk_iff_of_busy h]
  constructor
  · rintro ⟨hlegal, hstream, hmem, ⟨hcause, hres, hruns, hcheck⟩, -, hpass, hcur, hloop⟩
    refine ⟨hlegal, hmem, h, hcause, hres, hruns, hcheck, hpass, hcur, fun hrun => ?_⟩
    simp only [streamOk, loopOk, hrun, h, Bool.not_true, Bool.false_or, Bool.and_eq_true, beq_iff_eq] at hstream hloop
    exact ⟨hloop.2, hstream⟩
  · rintro ⟨hlegal, hmem, -, hcause, hres, hruns, hcheck, hpass, hcur, hloop⟩
    refine ⟨hlegal, ?_, hmem, ⟨hcause, hres, hruns, hcheck⟩, by simp [quietOk, h], hpass, hcur, ?_⟩
    · cases hrun : s.bits.running with
      | false => simp [streamOk, hrun]
      | true => simpa [streamOk, hrun] using (hloop hrun).2
    · cases hrun : s.bits.running with
      | false => simp [loopOk, hrun]
      | true => simpa [loopOk, hrun, h] using (hloop hrun).1

theorem machineInv_iff_restInv {s : State} (h : s.st ≠ .busy) : MachineInv s ↔ RestInv s := by
  unfold MachineInv
  constructor
  · rintro ⟨hlegal, -, hmem, hout, hquiet, -, -, -⟩
    exact ⟨hlegal, hmem, h, hout, (freshInternal_eq_self_iff s).mp (by simpa [quietOk, h] using hquiet)⟩
  · rintro ⟨hlegal, hmem, -, hout, hquiet⟩
    have hfresh := (freshInternal_eq_self_iff s).mpr hquiet
    obtain ⟨-, -, -, -, -, hec, hbits⟩ := hquiet
    refine ⟨hlegal, by simp [streamOk, hbits], hmem, hout, by simp [quietOk, hfresh], by simp [passOk, h], ?_,
      by simp [loopOk, hbits]⟩
    simp [cursorOk, streamEnd, hbits, hec]

theorem BusyInv.machineInv {s : State} (h : BusyInv s) : MachineInv s := (machineInv_iff_busyInv h.busy).mpr h

theorem RestInv.machineInv {s : State} (h : RestInv s) : MachineInv s := (machineInv_iff_restInv h.rest).mpr h

/-! ## Memory -/

theorem memoryOk_iff (s : State) :
    memoryOk s = true ↔ memWf s.mem = true ∧ (s.mem.all fun c => hasStorage s.cfg c.1) = true := by
  simp [memoryOk]

theorem memoryOk_storeBytes {s t : State} (h : memoryOk s = true) (hcfg : t.cfg = s.cfg) {r : Region} {off : Nat}
    {bs : List Byte} (hmem : t.mem = storeBytes s.cfg s.mem r off bs) : memoryOk t = true := by
  rw [memoryOk_iff] at h ⊢
  rw [hmem, hcfg]
  exact ⟨memWf_storeBytes _ _ _ _ _ h.1, placed_storeBytes _ _ _ _ _ h.2⟩

theorem memoryOk_clearRegions {s t : State} (h : memoryOk s = true) (hcfg : t.cfg = s.cfg) {rs : List Region}
    (hmem : t.mem = clearRegions s.cfg s.mem rs) : memoryOk t = true := by
  rw [memoryOk_iff] at h ⊢
  rw [hmem, hcfg]
  exact ⟨memWf_clearRegions _ _ _ h.1, placed_clearRegions _ _ _ h.2⟩

theorem memoryOk_congr {s t : State} (h : memoryOk s = true) (hcfg : t.cfg = s.cfg) (hmem : t.mem = s.mem) :
    memoryOk t = true := by
  rw [memoryOk_iff] at h ⊢
  rwa [hmem, hcfg]

/-! ## Exceptions -/

theorem acceptCheck_congr {s t : State} (c : Command) (hcfg : t.cfg = s.cfg) (hhints : t.hints = s.hints)
    (hw : t.imgWidth = s.imgWidth) (hh : t.imgHeight = s.imgHeight) (h0 : t.arg0 = s.arg0) (h1 : t.arg1 = s.arg1) :
    acceptCheck c t = acceptCheck c s := by
  simp only [acceptCheck, hcfg, hhints, hw, hh, h0, h1]

theorem excState_eq (e : Exc) : excState e = if excKind e = .precondition then .fatal else .fail := by
  cases e <;> rfl

theorem excState_ne_busy (e : Exc) : excState e ≠ .busy := by
  rw [excState_eq]
  split <;> simp

/-- The end of a command by exception leaves the machine at rest: a precondition is reported in pass 0 only. -/
theorem endWithExc_restInv {s : State} (e : Exc) (hlegal : s.cfg.legal = true) (hmem : memoryOk s = true)
    (hpass : s.pass = true → ∃ e0, s.exc0 = some e0 ∧ excKind e0 ≠ .precondition) : RestInv (endWithExc s e) := by
  have hout : ∀ r, (if s.pass then s.exc0.getD e else e) = r →
      (excKind r = .precondition → s.pass = false) → outcomeOk (endWithExc s e) = true := by
    intro r hr hpre
    simp only [outcomeOk, endWithExc_st, endWithExc_cause, endWithExc_stage, endWithExc_res, endWithExc_pass, hr,
      excState_eq]
    by_cases hk : excKind r = .precondition
    · simp [hk, hpre hk]
    · simp [hk]
  refine ⟨hlegal, memoryOk_clearRegions hmem rfl rfl, ?_, hout _ rfl ?_, rfl, rfl, rfl, rfl, rfl, rfl, rfl⟩
  · rw [endWithExc_st]
    exact excState_ne_busy _
  · intro hpre
    cases hp : s.pass with
    | false => rfl
    | true =>
      obtain ⟨e0, he0, hkind⟩ := hpass hp
      simp [hp, he0] at hpre
      exact absurd hpre hkind

theorem BusyInv.latched {s : State} (h : BusyInv s) (hp : s.pass = true) :
    ∃ e0, s.exc0 = some e0 ∧ excKind e0 ≠ .precondition := by
  have hpass := h.pass
  rw [PassInv, if_pos hp] at hpass
  obtain ⟨-, -, e0, he0, hkind, -⟩ := hpass
  exact ⟨e0, he0, by rcases hkind with hk | hk <;> simp [hk]⟩

theorem mirrorEdge_busyInv {s : State} {e : Exc} (h : BusyInv s) (hm : takesMirror s e = true) :
    BusyInv (mirrorEdge s e) := by
  obtain ⟨hcmd, hp, hkind, hstage⟩ := (takesMirror_iff s e).mp hm
  have hdec : inDecoder (excStage e) = true := by rcases hstage with hs | hs | hs | hs <;> simp [hs, inDecoder]
  refine ⟨h.legal, memoryOk_clearRegions h.memory rfl rfl, h.busy, h.cause, h.res, ?_, ?_, ?_, ?_, ?_⟩
  · rcases hcmd with hc | hc <;> simp [hc, runsStage, inDecoder]
  · exact h.check
  · rw [PassInv, if_pos (mirrorEdge_pass s e)]
    exact ⟨hcmd, .inl rfl, e, rfl, hkind, hdec⟩
  · rfl
  · intro hrun
    cases hrun

theorem raise_machineInv {s : State} (e : Exc) (h : BusyInv s) : MachineInv (raise s e) := by
  obtain ⟨hm, hr⟩ | ⟨-, hr⟩ := raise_cases s e
  · rw [hr]
    exact (mirrorEdge_busyInv h hm).machineInv
  · rw [hr]
    exact (endWithExc_restInv e h.legal h.memory h.latched).machineInv

/-! ## The instruction loop -/

/-- Before the sum is cut to 15 bits the cursor is still within the data. -/
theorem toNat_bitpos_add {s : State} {n : Nat} (hndata : s.bits.ndata.toNat ≤ 2956)
    (hroom : s.bits.bitpos.toNat + n ≤ streamEnd s) :
    (s.bits.bitpos + BitVec.ofNat 15 n).toNat = s.bits.bitpos.toNat + n := by
  unfold streamEnd at hroom
  rw [BitVec.toNat_add, BitVec.toNat_ofNat]
  omega

theorem cursorOk_iff (s : State) :
    cursorOk s = true ↔ s.bits.bitpos.toNat ≤ streamEnd s ∧ 10 * s.bits.tlen ≤ 3 * s.bits.bitpos.toNat ∧
      4 * s.bits.nseg ≤ s.bits.bitpos.toNat ∧ s.bits.ndata.toNat ≤ 2956 ∧ s.ec.ndata.toNat ≤ 2956 := by
  simp [cursorOk, and_assoc]

theorem appended_busyInv {s t : State} {n len : Nat} (h : BusyInv s) (ha : Appended s t n len)
    (hroom : s.bits.bitpos.toNat + n ≤ streamEnd s) (hn : 4 ≤ n) (htext : 10 * len ≤ 3 * n) : BusyInv t := by
  obtain ⟨hframe, hrun, hver, hndata, hpos, htlen, hnseg, text, entry, hmem⟩ := ha
  obtain ⟨hcur, hct, hcs, hcn, hce⟩ := (cursorOk_iff s).mp h.cursor
  have hadd := toNat_bitpos_add hcn hroom
  have hmem' : memoryOk t = true := by
    have htextOk : memoryOk { s with mem := storeBytes s.cfg s.mem .text s.bits.tlen text } = true :=
      memoryOk_storeBytes h.memory rfl rfl
    exact memoryOk_storeBytes htextOk (by rw [hframe]) hmem
  have hstream : streamEnd t = streamEnd s := by simp only [streamEnd, hndata]
  have hec : t.ec = s.ec := by rw [hframe]
  refine ⟨?_, hmem', ?_, ?_, ?_, ?_, ?_, ?_, ?_, ?_⟩
  · rw [hframe]; exact h.legal
  · rw [hframe]; exact h.busy
  · rw [hframe]; exact h.cause
  · rw [hframe]; exact h.res
  · rw [hframe]; exact h.runs
  · rw [hframe]; exact h.check
  · rw [hframe]; exact h.pass
  · rw [cursorOk_iff, hpos, hadd, htlen, hnseg, hndata, hec, hstream]
    omega
  · intro hrun'
    obtain ⟨hstage, hnd, hv⟩ := h.loop (hrun ▸ hrun')
    rw [hndata, hver, hnd, hv, hframe]
    exact ⟨hstage, rfl, rfl⟩

theorem nextStage_bits (c : Command) : nextStage c .bits = .fin := by cases c <;> rfl

theorem finishBits_busyInv {s : State} {n : Nat} (h : BusyInv s)
    (hroom : n = 0 ∨ s.bits.bitpos.toNat + n ≤ streamEnd s) : BusyInv (finishBits (advance s n)) := by
  obtain ⟨hcur, hct, hcs, hcn, hce⟩ := (cursorOk_iff s).mp h.cursor
  have hadd := toNat_bitpos_add (n := n) hcn (by rcases hroom with rfl | hroom <;> omega)
  have hstage : (finishBits (advance s n)).stage = .fin := nextStage_bits _
  refine ⟨h.legal, memoryOk_congr h.memory rfl rfl, h.busy, h.cause, h.res, ?_, h.check, ?_, ?_, ?_⟩
  · have hruns := h.runs
    rw [hstage, finishBits_cmd, advance_cmd]
    revert hruns
    cases s.cmd <;> simp [runsStage]
  · have hpass := h.pass
    simp only [PassInv, finishBits_pass, advance_pass, hstage, finishBits_cmd, advance_cmd, finishBits_exc0,
      advance_exc0] at hpass ⊢
    split
    · rename_i hp
      rw [if_pos hp] at hpass
      exact ⟨hpass.1, .inr trivial, hpass.2.2⟩
    · rename_i hp
      rwa [if_neg hp] at hpass
  · rw [cursorOk_iff, finishBits_bits, finishBits_ec, advance_bits, advance_ec]
    simp only [streamEnd, finishBits_bits, advance_bits] at hroom hcur ⊢
    rw [hadd]
    omega
  · intro hrun
    cases hrun

theorem loopStep_machineInv {s t : State} (h : BusyInv s) (hstep : LoopStep s t) : MachineInv t := by
  cases hstep with
  | ends n hroom =>
    exact (finishBits_busyInv h hroom).machineInv
  | raises e => exact raise_machineInv e h
  | appends t n len ha hroom hn htext =>
    exact (appended_busyInv h ha hroom hn htext).machineInv

/-! ## The engine -/

theorem dataLength_le {s : State} (h : BusyInv s) : (dataLength s).toNat ≤ 2956 := by
  obtain ⟨-, -, -, -, hce⟩ := (cursorOk_iff s).mp h.cursor
  unfold dataLength
  split
  · rename_i hc
    have hcheck := h.check
    rw [hc] at hcheck
    simp only [acceptCheck, reduceCtorEq, if_false] at hcheck
    split at hcheck
    · cases hcheck
    split at hcheck
    · cases hcheck
    split at hcheck
    · cases hcheck
    split at hcheck
    · rename_i hargs
      simp only [argsOk, Bool.and_eq_true, decide_eq_true_eq] at hargs
      rw [BitVec.extractLsb'_toNat]
      omega
    · cases hcheck
  · exact hce

theorem enterBits_busyInv {s : State} (h : BusyInv s) (hstage : s.stage = .bits) : BusyInv (enterBits s) := by
  refine ⟨h.legal, memoryOk_congr h.memory rfl rfl, h.busy, h.cause, h.res, h.runs, h.check, h.pass, ?_,
    fun _ => ⟨hstage, rfl, rfl⟩⟩
  obtain ⟨-, -, -, -, hce⟩ := (cursorOk_iff s).mp h.cursor
  rw [cursorOk_iff]
  exact ⟨Nat.zero_le _, Nat.le_refl _, Nat.le_refl _, dataLength_le h, hce⟩

theorem endStep_restInv {s : State} (h : BusyInv s) : RestInv (endStep s) :=
  ⟨h.legal, memoryOk_congr h.memory rfl rfl, by simp, rfl, rfl, rfl, rfl, rfl, rfl, rfl, rfl⟩

/-- The stage after one of a command is one of the command, and in the mirror pass one of the decoder or the end step. -/
theorem nextStage_runs {c : Command} {st : Stage} (h : runsStage c st = true) : runsStage c (nextStage c st) = true := by
  cases c <;> cases st <;> simp_all [runsStage, nextStage, inDecoder]

theorem nextStage_inDecoder {c : Command} {st : Stage} (hc : c = .decode ∨ c = .decodesym)
    (h : inDecoder st = true ∨ st = .fin) : inDecoder (nextStage c st) = true ∨ nextStage c st = .fin := by
  rcases hc with rfl | rfl <;> cases st <;> simp_all [nextStage, inDecoder]

theorem advanced_busyInv {s t : State} (h : BusyInv s) (hrun : s.bits.running = false) (ha : Advanced s t) :
    BusyInv t := by
  obtain ⟨hframe, hndata, r, -, bs, hmem⟩ := ha
  obtain ⟨hcur, hct, hcs, hcn, hce⟩ := (cursorOk_iff s).mp h.cursor
  have hbits : t.bits = s.bits := by rw [hframe]
  refine ⟨?_, memoryOk_storeBytes h.memory (by rw [hframe]) hmem, ?_, ?_, ?_, ?_, ?_, ?_, ?_, ?_⟩
  · rw [hframe]; exact h.legal
  · rw [hframe]; exact h.busy
  · rw [hframe]; exact h.cause
  · rw [hframe]; exact h.res
  · rw [hframe]; exact nextStage_runs h.runs
  · rw [hframe]; exact h.check
  · have hpass := h.pass
    rw [hframe]
    simp only [PassInv] at hpass ⊢
    split
    · rename_i hp
      rw [if_pos hp] at hpass
      exact ⟨hpass.1, nextStage_inDecoder hpass.1 hpass.2.1, hpass.2.2⟩
    · rename_i hp
      rwa [if_neg hp] at hpass
  · rw [cursorOk_iff]
    simp only [streamEnd, hbits] at hcur ⊢
    exact ⟨hcur, hct, hcs, hcn, hndata hce⟩
  · intro hrun'
    rw [hbits, hrun] at hrun'
    cases hrun'

theorem engineStep_machineInv {s t : State} (h : BusyInv s) (hrun : s.bits.running = false) (hstep : EngineStep s t) :
    MachineInv t := by
  cases hstep with
  | advances t ha =>
    exact (advanced_busyInv h hrun ha).machineInv
  | raises ovf e =>
    refine raise_machineInv e ?_
    exact ⟨h.legal, h.memory, h.busy, h.cause, h.res, h.runs, h.check, h.pass, h.cursor, h.loop⟩
  | enters hstage =>
    exact (enterBits_busyInv h hstage).machineInv
  | finishes =>
    exact (endStep_restInv h).machineInv

end Sys2Proof.Proofs
end

section
/-!
PROOFS about command words (`30_encoding.md` R120 to R124) and what a command does when it is issued
(`47_sequencer_commands.md` R470 to R473).
-/

namespace Sys2Proof.Proofs

open Sys2Proof Sys2Proof.Machine Sys2Proof.Laws

/-! ## Command words -/

/-- A word whose upper 28 bits are clear is its `OP` field. -/
theorem word_eq_of_upper_zero {w : BitVec 32} (h : w.extractLsb' 4 28 = 0) :
    w = BitVec.ofNat 32 (w.extractLsb' 0 4).toNat := by
  have hupper := congrArg BitVec.toNat h
  have hw := w.isLt
  rw [BitVec.extractLsb'_toNat, Nat.shiftRight_eq_div_pow, Nat.mod_eq_of_lt (by omega)] at hupper
  apply BitVec.eq_of_toNat_eq
  rw [BitVec.toNat_ofNat, BitVec.extractLsb'_toNat, Nat.shiftRight_zero]
  change w.toNat / 2 ^ 4 = 0 at hupper
  omega

/-- R124: a set upper bit makes the word reserved, whatever its `OP`. -/
theorem decodeCommand_of_upper {w : BitVec 32} (h : w.extractLsb' 4 28 ≠ 0) :
    decodeCommand w = .reservedCmdNonzeroUpper (w.extractLsb' 0 4) (w.extractLsb' 4 28) := by
  rw [decodeCommand, if_pos (bne_iff_ne.mpr h)]

/-- The sixteen words without upper bits, checked one by one. -/
theorem decodeCommand_small : ∀ n, n < 16 → ∀ t : Tier,
    (decodeCommand (BitVec.ofNat 32 n)).isCommand = true ∧ (decodeCommand (BitVec.ofNat 32 n)).wf t = true ∧
      encode t (decodeCommand (BitVec.ofNat 32 n)) = .word (BitVec.ofNat 32 n) := by
  intro n hn t
  interval_cases n <;> exact ⟨rfl, rfl, rfl⟩

theorem append_extract_fields (w : BitVec 32) : w.extractLsb' 4 28 ++ w.extractLsb' 0 4 = w := by
  apply BitVec.eq_of_getLsbD_eq
  intro k hk
  rw [BitVec.getLsbD_append]
  by_cases h4 : k < 4
  · simp [h4]
  · rw [if_neg h4, BitVec.getLsbD_extractLsb', decide_eq_true (by omega), Bool.true_and, Nat.add_sub_cancel' (by omega)]

theorem extract_upper_append (op : BitVec 4) (upper : BitVec 28) :
    (upper ++ op).extractLsb' 4 28 = upper ∧ (upper ++ op).extractLsb' 0 4 = op := by
  constructor <;> apply BitVec.eq_of_getLsbD_eq <;> intro k hk <;>
    rw [BitVec.getLsbD_extractLsb', decide_eq_true hk, Bool.true_and, BitVec.getLsbD_append]
  · rw [if_neg (by omega), Nat.add_sub_cancel_left]
  · rw [if_pos (by omega), Nat.zero_add]

theorem decodeCommand_encodes (t : Tier) (w : BitVec 32) :
    (decodeCommand w).isCommand = true ∧ (decodeCommand w).wf t = true ∧ encode t (decodeCommand w) = .word w := by
  by_cases h : w.extractLsb' 4 28 = 0
  · rw [word_eq_of_upper_zero h]
    exact decodeCommand_small _ (BitVec.isLt _) t
  · rw [decodeCommand_of_upper h]
    exact ⟨rfl, bne_iff_ne.mpr h, congrArg Encoded.word (append_extract_fields w)⟩

/-- Settles O1: a word is its `OP` and its upper bits; sixteen words have none of these set, and every other is reserved. -/
theorem commandWordsRoundTrip : Obligations.CommandWordsRoundTrip := by
  refine ⟨fun t i w hi hwf hw => ?_, decodeCommand_encodes⟩
  cases i with
  | reservedCmdNonzeroUpper op upper =>
    cases hw
    obtain ⟨hu, ho⟩ := extract_upper_append op upper
    have hset : (upper ++ op).extractLsb' 4 28 ≠ 0 := by rw [hu]; exact bne_iff_ne.mp hwf
    exact (decodeCommand_of_upper hset).trans (by rw [hu, ho])
  | terminator | numeric | alphanumeric | structuredAppend | byte | fnc1First | eci | kanji | fnc1Second | hanzi
  | reservedMode6 | reservedModeA | reservedModeB | reservedModeC | reservedModeE | reservedModeF => cases hi
  | _ => cases hw; rfl

/-! ## What a command does -/

/-- What a command word is accepted as (R471, R480, R488): NOP changes nothing, CLEAR clears, any other command is accepted
or refused by the checks. -/
inductive AcceptedState (s : State) : State → Prop
  | nop : AcceptedState s s
  | clear : AcceptedState s (clearStatus s)
  | command (c : Command) (h : c ≠ .none) : AcceptedState s (accept s c)

/-- Every command is issued (R470). -/
theorem exec_command {i : Instr} (s : State) (h : i.isCommand = true) :
    ∃ u, exec i s = .next (issue s u) ∧ AcceptedState s u := by
  cases i with
  | nop => exact ⟨_, rfl, .nop⟩
  | clear => exact ⟨_, rfl, .clear⟩
  | decode => exact ⟨_, rfl, .command .decode (by decide)⟩
  | binarize => exact ⟨_, rfl, .command .binarize (by decide)⟩
  | detect => exact ⟨_, rfl, .command .detect (by decide)⟩
  | decodesym => exact ⟨_, rfl, .command .decodesym (by decide)⟩
  | rsdecode => exact ⟨_, rfl, .command .rsdecode (by decide)⟩
  | parsebits => exact ⟨_, rfl, .command .parsebits (by decide)⟩
  | reservedCmd8 | reservedCmd9 | reservedCmdA | reservedCmdB | reservedCmdC | reservedCmdD | reservedCmdE | reservedCmdF
  | reservedCmdNonzeroUpper => exact ⟨_, rfl, .command .reserved (by decide)⟩
  | _ => cases h

/-- Settles O10: whatever the word, the command it decodes to is issued, and a command issued while BUSY only sets
`HOSTERR`. -/
theorem busyIgnoresCommands : Obligations.BusyIgnoresCommands := by
  intro s w hbusy
  obtain ⟨u, hexec, -⟩ := exec_command s (decodeCommand_encodes .low w).1
  rw [hexec, issue_of_busy s u hbusy, setHosterr]

end Sys2Proof.Proofs
end

section
/-!
PROOFS: the invariant is kept by every step, and no step stops. The step is the loop's, the engine's or the host's; the first
two are in the files before, the host's acts are here.
-/

namespace Sys2Proof.Proofs

open Sys2Proof Sys2Proof.Machine Sys2Proof.Laws

/-! ## What the invariant does not depend on -/

section
variable {s : State} {hosterr : Bool} {imgWidth imgHeight hints irqEn arg0 arg1 rdata : Word} {irqPend : BitVec 3}
  {mem : List Host.Cell} {host : List HostEvent}

/-- At rest the invariant depends on no operand, no interrupt register and nothing of the host side, and on the memory only
by its own condition. -/
theorem RestInv.update (h : RestInv s) (hmem : memoryOk { s with mem := mem } = true) :
    RestInv
      { s with
        hosterr := hosterr, imgWidth := imgWidth, imgHeight := imgHeight, hints := hints, irqEn := irqEn
        irqPend := irqPend, arg0 := arg0, arg1 := arg1, mem := mem, host := host, rdata := rdata } := by
  obtain ⟨hlegal, -, hrest, hout, hquiet⟩ := h
  refine ⟨hlegal, hmem, hrest, ?_, hquiet⟩
  unfold outcomeOk at hout ⊢
  dsimp only
  split
  · rename_i hst; rwa [hst] at hout
  · rename_i hst; exact absurd hst hrest
  · rename_i hst; rwa [hst] at hout
  · rename_i hst; rwa [hst] at hout
  · rename_i hst; rwa [hst] at hout

/-- While BUSY it does not depend on the interrupt registers, `HOSTERR` and the host side. -/
theorem BusyInv.update (h : BusyInv s) :
    BusyInv { s with hosterr := hosterr, irqEn := irqEn, irqPend := irqPend, host := host, rdata := rdata } :=
  ⟨h.legal, h.memory, h.busy, h.cause, h.res, h.runs, h.check, h.pass, h.cursor, h.loop⟩

end

theorem busyInv_of_machineInv {s : State} (h : MachineInv s) (hbusy : s.st = .busy) : BusyInv s :=
  (machineInv_iff_busyInv hbusy).mp h

theorem restInv_of_machineInv {s : State} (h : MachineInv s) (hrest : s.st ≠ .busy) : RestInv s :=
  (machineInv_iff_restInv hrest).mp h

/-- `HOSTERR`, the events still to come and the word last read are no part of the invariant. -/
theorem machineInv_update {s : State} (h : MachineInv s) (hosterr : Bool) (host : List HostEvent) (rdata : Word) :
    MachineInv { s with hosterr := hosterr, host := host, rdata := rdata } := by
  by_cases hbusy : s.st = .busy
  · exact (busyInv_of_machineInv h hbusy).update.machineInv
  · have hrest := restInv_of_machineInv h hbusy
    exact (hrest.update hrest.memory).machineInv

theorem machineInv_with_host {s : State} (h : MachineInv s) (es : List HostEvent) : MachineInv { s with host := es } :=
  machineInv_update h s.hosterr es s.rdata

/-! ## Host accesses -/

theorem hostRead_machineInv {s : State} (h : MachineInv s) (a : Word) (n : Width) : MachineInv (hostRead s a n) := by
  rw [hostRead_frame]
  exact machineInv_update h _ s.host _

/-- A host write stores to at most one region; a refused one stores nothing. -/
theorem hostWrite_mem (s : State) (a : Word) (n : Width) (v : Word) :
    ∃ r off bs, (hostWrite s a n v).mem = storeBytes s.cfg s.mem r off bs := by
  have hsame : ∀ t : State, t.mem = s.mem → ∃ r off bs, t.mem = storeBytes s.cfg s.mem r off bs :=
    fun t ht => ⟨.luma, 0, [], ht⟩
  have hreg : ∀ r, (writeReg s r v).mem = s.mem := by
    intro r
    cases r <;> simp [writeReg, writeOperand, apply_ite State.mem]
  unfold hostWrite
  dsimp only
  split
  · exact hsame _ rfl
  split
  · exact hsame _ rfl
  · split
    · exact hsame _ rfl
    split
    · exact hsame _ rfl
    · exact hsame _ (hreg _)
  · split
    · exact hsame _ rfl
    split
    · exact hsame _ rfl
    · exact ⟨_, _, _, rfl⟩

/-- While BUSY a host write changes at most the interrupt registers and `HOSTERR` (R22, R93). -/
theorem hostWrite_frame_of_busy {s : State} (hbusy : s.st = .busy) (a : Word) (n : Width) (v : Word) :
    let t := hostWrite s a n v
    t = { s with hosterr := t.hosterr, irqEn := t.irqEn, irqPend := t.irqPend } := by
  have hreg : ∀ r, writeReg s r v =
      { s with
        hosterr := (writeReg s r v).hosterr, irqEn := (writeReg s r v).irqEn, irqPend := (writeReg s r v).irqPend } := by
    intro r
    cases r <;> simp [writeReg, writeOperand, hbusy, setHosterr]
  unfold hostWrite
  dsimp only
  split
  · rfl
  split
  · rfl
  · split
    · rfl
    split
    · rfl
    · exact hreg _
  · split <;> rfl

theorem hostWrite_machineInv {s : State} (h : MachineInv s) (a : Word) (n : Width) (v : Word) :
    MachineInv (hostWrite s a n v) := by
  by_cases hbusy : s.st = .busy
  · have hframe := hostWrite_frame_of_busy hbusy a n v
    dsimp only at hframe
    rw [hframe]
    exact (busyInv_of_machineInv h hbusy).update.machineInv
  · have hrest := restInv_of_machineInv h hbusy
    obtain ⟨r, off, bs, hmem⟩ := hostWrite_mem s a n v
    have hframe := hostWrite_frame s a n v
    dsimp only at hframe
    rw [hframe, hmem]
    exact (hrest.update (mem := storeBytes s.cfg s.mem r off bs) (memoryOk_storeBytes hrest.memory rfl rfl)).machineInv

/-! ## Commands -/

theorem accept_machineInv {s : State} (h : RestInv s) {c : Command} (hc : c ≠ .none) : MachineInv (accept s c) := by
  have hmem : memoryOk (prepare s c) = true := memoryOk_clearRegions h.memory rfl rfl
  unfold accept
  cases hcheck : acceptCheck c s with
  | some e => exact (endWithExc_restInv (s := prepare s c) e h.legal hmem fun hp => by cases hp).machineInv
  | none =>
    have hres : c ≠ .reserved := by
      rintro rfl
      cases hcheck
    refine BusyInv.machineInv ⟨h.legal, hmem, rfl, rfl, rfl, ?_, hcheck, rfl, rfl, fun hrun => by cases hrun⟩
    cases c with
    | none => exact absurd rfl hc
    | reserved => exact absurd rfl hres
    | decode | detect | decodesym | rsdecode | parsebits | binarize => rfl

theorem clearStatus_restInv {s : State} (h : RestInv s) : RestInv (clearStatus s) :=
  ⟨h.legal, memoryOk_congr h.memory rfl rfl, by simp, rfl, rfl, rfl, rfl, rfl, rfl, rfl, rfl⟩

theorem exec_command_machineInv {s : State} (h : MachineInv s) {i : Instr} (hi : i.isCommand = true) :
    ∃ t, exec i s = .next t ∧ MachineInv t := by
  obtain ⟨u, hexec, hu⟩ := exec_command s hi
  refine ⟨_, hexec, ?_⟩
  by_cases hbusy : s.st = .busy
  · rw [issue_of_busy s u hbusy]
    exact machineInv_update h true s.host s.rdata
  · rw [issue_of_not_busy s u hbusy]
    cases hu with
    | nop => exact h
    | clear => exact (clearStatus_restInv (restInv_of_machineInv h hbusy)).machineInv
    | command c hc => exact accept_machineInv (restInv_of_machineInv h hbusy) hc

/-! ## Reset -/

theorem resetWith_restInv {cfg : Config} (h : cfg.legal = true) (cells : List Host.Cell) :
    RestInv (State.resetWith cfg (memOfCells cfg cells)) where
  legal := h
  memory := (memoryOk_iff _).mpr ⟨memWf_memOfCells cfg cells, placed_memOfCells cfg cells⟩
  rest := by simp [State.resetWith]
  outcome := rfl
  quiet := ⟨rfl, rfl, rfl, rfl, rfl, rfl, rfl⟩

/-- Settles O37: after power-up the machine is at rest, its memory built by canonical writes to storage. -/
theorem resetMeetsInvariant : Obligations.ResetMeetsInvariant :=
  ⟨fun cfg h => (resetWith_restInv h cfg.initMem).machineInv, rfl,
    (resetWith_restInv (cfg := Config.hw) (by decide) []).machineInv⟩

theorem resetTo_machineInv {s : State} (h : MachineInv s) (m : List Host.Cell) (rest : List HostEvent) :
    MachineInv (resetTo s m rest) :=
  machineInv_with_host (resetWith_restInv h.1 m).machineInv rest

/-! ## The step -/

theorem BusyInv.stage_ne_none {s : State} (h : BusyInv s) : s.stage ≠ .none := by
  have hruns := h.runs
  intro hn
  rw [hn] at hruns
  revert hruns
  cases s.cmd <;> decide

theorem engineStep_machineInv' {s : State} (h : MachineInv s) (hrun : s.bits.running = false) :
    ∃ t, engineStep s = .next t ∧ MachineInv t := by
  by_cases hbusy : s.st = .busy
  · have hinv := busyInv_of_machineInv h hbusy
    obtain ⟨t, hstep, heffect⟩ := engineStep_of_busy hbusy hinv.stage_ne_none
    exact ⟨t, hstep, engineStep_machineInv hinv hrun heffect⟩
  · exact ⟨s, engineStep_of_not_busy hbusy, h⟩

theorem busyInv_of_running {s : State} (h : MachineInv s) (hrun : s.bits.running = true) : BusyInv s := by
  by_contra hnot
  have hrest := restInv_of_machineInv h fun hb => hnot (busyInv_of_machineInv h hb)
  obtain ⟨-, -, -, -, -, -, hbits⟩ := hrest.quiet
  simp [hbits] at hrun

/-- With the invariant the step answers a next state, which meets it. -/
theorem step_machineInv {s : State} (h : MachineInv s) : ∃ t, step s = .next t ∧ MachineInv t := by
  unfold step
  cases hrun : s.bits.running with
  | true =>
    obtain ⟨t, hstep, hloop⟩ := segmentStep_loopStep s
    exact ⟨t, hstep, loopStep_machineInv (busyInv_of_running h hrun) hloop⟩
  | false =>
    rw [if_neg (by simp)]
    cases hhost : s.host with
    | nil => exact engineStep_machineInv' h hrun
    | cons e es =>
      have h' := machineInv_with_host h es
      cases e with
      | engine => exact engineStep_machineInv' h' hrun
      | read a n => exact ⟨_, rfl, hostRead_machineInv h' a n⟩
      | write a n v =>
        dsimp only [hostWriteStep]
        split
        · exact exec_command_machineInv h' (decodeCommand_encodes .low v).1
        · exact ⟨_, rfl, hostWrite_machineInv h' a n v⟩
      | rst m => exact ⟨_, rfl, resetTo_machineInv h m es⟩

/-- Settles O38: the next state of `step_machineInv` is the one asked about. -/
theorem stepKeepsInvariant : Obligations.StepKeepsInvariant := by
  intro s t h hstep
  obtain ⟨u, hu, hinv⟩ := step_machineInv h
  rw [hstep] at hu
  cases hu
  exact hinv

/-- Settles O39: every state of the invariant has a step, which keeps it. -/
theorem stepNeverStops : Obligations.StepNeverStops := fun _ h =>
  let ⟨t, hstep, _⟩ := step_machineInv h
  ⟨t, hstep⟩

end Sys2Proof.Proofs
end

section
/-!
PROOFS about whole runs: every command ends (R423, R490), the stages follow the sequence of the command (R472, R476), and what
the engine and the instruction loop leave alone (R23, R89). Each is read off what a step of the engine or of the loop can do.
-/

namespace Sys2Proof.Proofs

open Sys2Proof Sys2Proof.Machine Sys2Proof.Laws

/-! ## Every command ends -/

/-- The steps the stages of one pass can still take: one a stage, and one an instruction, of at least 4 of the 23648 bits. -/
def passSteps (s : State) : Nat :=
  match s.stage with
  | .none => 0
  | .bin => 5920
  | .det => 5919
  | .parse => 5918
  | .readcw => 5917
  | .ec => 5916
  | .bits => if s.bits.running then 2 + (23648 - s.bits.bitpos.toNat) / 4 else 5915
  | .fin => 1

/-- The steps a running command can still take: in pass 0 those of the mirror pass, from PARSE on, may follow. -/
def stepsLeft (s : State) : Nat := (if s.pass then 0 else 5918) + passSteps s

theorem passSteps_le (s : State) : passSteps s ≤ 5920 := by
  unfold passSteps
  cases s.stage with
  | bits => dsimp only; split <;> omega
  | none | bin | det | parse | readcw | ec | fin => simp

theorem stepsLeft_le (s : State) : stepsLeft s ≤ 11838 := by
  have hpass := passSteps_le s
  unfold stepsLeft
  split <;> omega

theorem raise_stepsLeft {s s' : State} {e : Exc} (hbusy : (raise s' e).st = .busy) (hpass : s'.pass = s.pass)
    (hsteps : 0 < passSteps s) : stepsLeft (raise s' e) < stepsLeft s := by
  obtain ⟨hm, hr⟩ | ⟨-, hr⟩ := raise_cases s' e
  · obtain ⟨-, hp, -, -⟩ := (takesMirror_iff s' e).mp hm
    have hmirror : stepsLeft (mirrorEdge s' e) = 5918 := rfl
    rw [hr, hmirror, stepsLeft, if_neg (by simp [← hpass, hp])]
    omega
  · rw [hr] at hbusy
    exact absurd hbusy (excState_ne_busy _)

theorem loopStep_stepsLeft {s t : State} (h : BusyInv s) (hrun : s.bits.running = true) (hstep : LoopStep s t)
    (hbusy : t.st = .busy) : stepsLeft t < stepsLeft s := by
  obtain ⟨hstage, -, -⟩ := h.loop hrun
  have hsteps : passSteps s = 2 + (23648 - s.bits.bitpos.toNat) / 4 := by simp [passSteps, hstage, hrun]
  cases hstep with
  | ends n hroom =>
    have hfin : (finishBits (advance s n)).stage = .fin := nextStage_bits _
    have hone : passSteps (finishBits (advance s n)) = 1 := by rw [passSteps, hfin]
    rw [stepsLeft, stepsLeft, hsteps, hone, finishBits_pass, advance_pass]
    omega
  | raises e he => exact raise_stepsLeft hbusy rfl (by omega)
  | appends t n len ha hroom hn htext =>
    obtain ⟨-, -, -, hcn, -⟩ := (cursorOk_iff s).mp h.cursor
    have hadd := toNat_bitpos_add hcn hroom
    rw [← ha.bitpos] at hadd
    have hstage' : t.stage = .bits := by rw [ha.frame]; exact hstage
    have hpass : t.pass = s.pass := by rw [ha.frame]
    have hsteps' : passSteps t = 2 + (23648 - t.bits.bitpos.toNat) / 4 := by
      simp [passSteps, hstage', ha.running, hrun]
    unfold streamEnd at hroom
    rw [stepsLeft, stepsLeft, hsteps, hsteps', hpass]
    omega

theorem engineStep_stepsLeft {s t : State} (hrun : s.bits.running = false) (hstep : EngineStep s t)
    (hbusy : t.st = .busy) : stepsLeft t < stepsLeft s := by
  cases hstep with
  | advances t ha hstage =>
    have hpass : t.pass = s.pass := by rw [ha.frame]
    have hrun' : t.bits.running = false := by rw [ha.frame]; exact hrun
    have hnext : t.stage = nextStage s.cmd s.stage := by rw [ha.frame]
    rw [stepsLeft, stepsLeft, hpass]
    apply Nat.add_lt_add_left
    rw [passSteps, passSteps, hnext, hrun']
    simp only [List.mem_cons, List.not_mem_nil, or_false] at hstage
    rcases hstage with hs | hs | hs | hs | hs <;> rw [hs] <;> cases s.cmd <;> simp [nextStage]
  | raises ovf e he hstage =>
    refine raise_stepsLeft hbusy rfl ?_
    simp only [List.mem_cons, List.not_mem_nil, or_false] at hstage
    rcases hstage with hs | hs | hs | hs | hs <;> simp [passSteps, hs]
  | enters hstage =>
    have hsteps : passSteps s = 5915 ∧ passSteps (enterBits s) = 5914 := by simp [passSteps, hstage, hrun]
    rw [stepsLeft, stepsLeft, hsteps.1, hsteps.2, enterBits_pass]
    omega
  | finishes => cases hbusy

/-- With no host event pending a step leads out of BUSY or leaves fewer steps. -/
theorem step_stepsLeft {s : State} (h : BusyInv s) (hhost : s.host = []) :
    ∃ t, step s = .next t ∧ t.host = [] ∧ (t.st = .busy → stepsLeft t < stepsLeft s) := by
  have hraise : ∀ (s' : State) (e : Exc), (raise s' e).host = s'.host := by
    intro s' e
    obtain ⟨-, hr⟩ | ⟨-, hr⟩ := raise_cases s' e <;> rw [hr] <;> rfl
  cases hrun : s.bits.running with
  | true =>
    obtain ⟨t, hstep, hloop⟩ := segmentStep_loopStep s
    refine ⟨t, by simpa [step, hrun] using hstep, ?_, loopStep_stepsLeft h hrun hloop⟩
    cases hloop with
    | ends n => exact hhost
    | raises e => rw [hraise]; exact hhost
    | appends t n len ha => rw [ha.frame]; exact hhost
  | false =>
    obtain ⟨t, hstep, heffect⟩ := engineStep_of_busy h.busy h.stage_ne_none
    refine ⟨t, by simpa [step, hrun, hhost] using hstep, ?_, engineStep_stepsLeft hrun heffect⟩
    cases heffect with
    | advances t ha => rw [ha.frame]; exact hhost
    | raises ovf e => rw [hraise]; exact hhost
    | enters => exact hhost
    | finishes => exact hhost

theorem run_succ (M : Host.Core) {s t : M.State} (h : M.step s = .next t) (k : Nat) : M.run (k + 1) s = M.run k t := by
  simp only [Host.Core.run, h]

theorem run_ends (n : Nat) (s : State) (h : MachineInv s) (hhost : s.host = [])
    (hsteps : s.st = .busy → stepsLeft s < n) :
    ∃ k t, k ≤ n ∧ Sys2Proof.core.run k s = .next t ∧ t.st ≠ .busy := by
  induction n generalizing s with
  | zero => exact ⟨0, s, Nat.le_refl 0, rfl, fun hb => by have := hsteps hb; omega⟩
  | succ n ih =>
    by_cases hbusy : s.st = .busy
    · obtain ⟨t, hstep, hhost', hless⟩ := step_stepsLeft (busyInv_of_machineInv h hbusy) hhost
      have hinv := stepKeepsInvariant s t h hstep
      obtain ⟨k, u, hk, hrun, hu⟩ := ih t hinv hhost' fun hb => by have := hless hb; have := hsteps hbusy; omega
      refine ⟨k + 1, u, by omega, ?_, hu⟩
      exact (run_succ Sys2Proof.core hstep k).trans hrun
    · exact ⟨0, s, Nat.zero_le _, rfl, hbusy⟩

/-- Settles O40: `stepsLeft` falls with every step of a BUSY machine. -/
theorem everyCommandEnds : Obligations.EveryCommandEnds := fun s h hhost =>
  run_ends 12000 s h hhost fun _ => by have := stepsLeft_le s; omega

/-! ## The order of the stages -/

/-- The rows of R472 and R474: a command, a stage and the stage after it. -/
def stageSequence : List (Command × Stage × Stage) :=
  [(Command.decode, Stage.bin, Stage.det), (.decode, .det, .parse), (.decode, .parse, .readcw),
    (.decode, .readcw, .ec), (.decode, .ec, .bits), (.decode, .bits, .fin),
    (.decodesym, .parse, .readcw), (.decodesym, .readcw, .ec), (.decodesym, .ec, .bits), (.decodesym, .bits, .fin),
    (.binarize, .bin, .fin), (.detect, .det, .fin), (.rsdecode, .ec, .fin), (.parsebits, .bits, .fin)]

theorem nextStage_mem_sequence {c : Command} {st : Stage} (h : runsStage c st = true) (hfin : st ≠ .fin) :
    (c, st, nextStage c st) ∈ stageSequence := by
  cases c <;> cases st <;> simp_all [runsStage, inDecoder, nextStage, stageSequence]

/-- What StageOrder says of a step of the engine or of the instruction loop that leaves the machine BUSY. -/
def StageFollows (s t : State) : Prop :=
  t.cmd = s.cmd ∧
    (t.pass = s.pass ∧ t.stage = s.stage ∧ t.bits.running = true ∨
      t.pass = s.pass ∧ (s.cmd, s.stage, t.stage) ∈ stageSequence ∨
      (s.cmd = .decode ∨ s.cmd = .decodesym) ∧ s.stage ∈ [Stage.parse, .readcw, .ec, .bits] ∧ s.pass = false ∧
        t.pass = true ∧ t.stage = .parse)

/-- A raise that leaves the machine BUSY is the mirror edge. -/
theorem raise_stageFollows {s : State} {ovf : Bool} {e : Exc} (hstage : excStage e = s.stage)
    (hbusy : (raise { s with candOvf := ovf } e).st = .busy) : StageFollows s (raise { s with candOvf := ovf } e) := by
  obtain ⟨hm, hr⟩ | ⟨-, hr⟩ := raise_cases { s with candOvf := ovf } e
  · obtain ⟨hcmd, hp, -, hdec⟩ := (takesMirror_iff _ e).mp hm
    rw [hr]
    rw [hstage] at hdec
    exact ⟨rfl, .inr (.inr ⟨hcmd, by simpa using hdec, hp, rfl, rfl⟩)⟩
  · rw [hr] at hbusy
    exact absurd hbusy (excState_ne_busy _)

theorem loopStep_stageFollows {s t : State} (h : BusyInv s) (hrun : s.bits.running = true) (hstep : LoopStep s t)
    (hbusy : t.st = .busy) : StageFollows s t := by
  obtain ⟨hstage, -, -⟩ := h.loop hrun
  cases hstep with
  | ends n =>
    refine ⟨rfl, .inr (.inl ⟨rfl, ?_⟩)⟩
    have hmem := nextStage_mem_sequence h.runs (by rw [hstage]; decide)
    rwa [hstage] at hmem ⊢
  | raises e he => exact raise_stageFollows (ovf := s.candOvf) (he.trans hstage.symm) hbusy
  | appends t n len ha =>
    have hrun' : t.bits.running = true := ha.running.trans hrun
    rw [ha.frame]
    exact ⟨rfl, .inl ⟨rfl, rfl, hrun'⟩⟩

theorem engineStep_stageFollows {s t : State} (h : BusyInv s) (hstep : EngineStep s t) (hbusy : t.st = .busy) :
    StageFollows s t := by
  cases hstep with
  | advances t ha hstage =>
    have hmem := nextStage_mem_sequence h.runs (by rintro hs; simp [hs] at hstage)
    rw [ha.frame]
    exact ⟨rfl, .inr (.inl ⟨rfl, hmem⟩)⟩
  | raises ovf e he => exact raise_stageFollows he hbusy
  | enters => exact ⟨rfl, .inl ⟨rfl, rfl, rfl⟩⟩
  | finishes => cases hbusy

theorem segmentStep_stageFollows {s t : State} (h : BusyInv s) (hrun : s.bits.running = true)
    (hstep : step s = .next t) (hbusy : t.st = .busy) : StageFollows s t := by
  obtain ⟨u, hu, hloop⟩ := segmentStep_loopStep s
  rw [step, if_pos hrun, hu] at hstep
  cases hstep
  exact loopStep_stageFollows h hrun hloop hbusy

theorem engineTurn_stageFollows {s u t : State} (h : BusyInv s) (hturn : EngineTurn s u) (hstep : step s = .next t)
    (hbusy : t.st = .busy) : StageFollows s t := by
  rw [step_of_engineTurn s u hturn] at hstep
  have engine : ∀ s', BusyInv s' → engineStep s' = .next t → StageFollows s' t := by
    intro s' h' hs'
    obtain ⟨v, hv, heffect⟩ := engineStep_of_busy h'.busy h'.stage_ne_none
    cases hv.symm.trans hs'
    exact engineStep_stageFollows h' heffect hbusy
  obtain ⟨-, ⟨-, rfl⟩ | ⟨rest, -, rfl⟩⟩ := hturn
  · exact engine _ h hstep
  · exact engine { s with host := rest } h.update hstep

/-- While BUSY the host's events but the engine's turn change neither command, stage nor pass. -/
theorem step_served_frame {s t : State} (hs : s.st = .busy) (hrun : s.bits.running = false) {e : HostEvent}
    {es : List HostEvent} (hhost : s.host = e :: es) (he : e ≠ .engine) (hstep : step s = .next t)
    (hbusy : t.st = .busy) : t.cmd = s.cmd ∧ t.pass = s.pass ∧ t.stage = s.stage := by
  rw [step, if_neg (by simp [hrun]), hhost] at hstep
  cases e with
  | engine => exact absurd rfl he
  | read a n =>
    cases hstep
    rw [hostRead_frame]
    exact ⟨rfl, rfl, rfl⟩
  | write a n v =>
    dsimp only [hostWriteStep] at hstep
    split at hstep
    · obtain ⟨u, hexec, -⟩ := exec_command { s with host := es } (decodeCommand_encodes .low v).1
      rw [hexec, issue_of_busy { s with host := es } u hs] at hstep
      cases hstep
      exact ⟨rfl, rfl, rfl⟩
    · cases hstep
      have hframe := hostWrite_frame_of_busy (s := { s with host := es }) hs a n v
      dsimp only at hframe
      rw [hframe]
      exact ⟨rfl, rfl, rfl⟩
  | rst m =>
    cases hstep
    cases hbusy

/-- Settles O41: a step is the loop's or the engine's, whose effects `StageFollows` lists, or it serves the host. -/
theorem stageOrder : Obligations.StageOrder := by
  intro s t hinv hbusy hstep htbusy
  have h := busyInv_of_machineInv hinv hbusy
  have follows : StageFollows s t → t.cmd = s.cmd ∧
      (t.pass = s.pass ∧ t.stage = s.stage ∧
          (t.bits.running = true ∨ ∃ e rest, s.host = e :: rest ∧ e ≠ HostEvent.engine) ∨
        t.pass = s.pass ∧ (s.cmd, s.stage, t.stage) ∈ stageSequence ∨
        (s.cmd = .decode ∨ s.cmd = .decodesym) ∧ s.stage ∈ [Stage.parse, .readcw, .ec, .bits] ∧ s.pass = false ∧
          t.pass = true ∧ t.stage = .parse) :=
    fun hf => ⟨hf.1, hf.2.imp_left fun hsame => ⟨hsame.1, hsame.2.1, .inl hsame.2.2⟩⟩
  cases hrun : s.bits.running with
  | true => exact follows (segmentStep_stageFollows h hrun hstep htbusy)
  | false =>
    obtain hhost | ⟨e, es, hhost⟩ : s.host = [] ∨ ∃ e es, s.host = e :: es := by
      cases s.host <;> simp
    · exact follows (engineTurn_stageFollows h ⟨hrun, .inl ⟨hhost, rfl⟩⟩ hstep htbusy)
    · by_cases he : e = .engine
      · subst he
        exact follows (engineTurn_stageFollows h ⟨hrun, .inr ⟨es, hhost, rfl⟩⟩ hstep htbusy)
      · obtain ⟨hcmd, hpass, hstage⟩ := step_served_frame hbusy hrun hhost he hstep htbusy
        exact ⟨hcmd, .inl ⟨hpass, hstage, .inr ⟨e, es, hhost, he⟩⟩⟩

/-! ## What the engine and the loop leave alone -/

theorem inWindow_iff (cfg : Config) (r : Region) (a : Nat) :
    inWindow cfg r a = true ↔ regionBase cfg r ≤ a ∧ a < regionBase cfg r + regionWindow r := by
  rw [inWindow, Bool.and_eq_true, decide_eq_true_eq, decide_eq_true_eq]

theorem inCapacity_iff (cfg : Config) (r : Region) (a : Nat) :
    inCapacity cfg r a = true ↔ regionBase cfg r ≤ a ∧ a < regionBase cfg r + regionCapacity cfg r := by
  rw [inCapacity, Bool.and_eq_true, decide_eq_true_eq, decide_eq_true_eq]

theorem inWindows_eq_false_iff (cfg : Config) (rs : List Region) (a : Nat) :
    inWindows cfg rs a = false ↔ ∀ r ∈ rs, ¬ (regionBase cfg r ≤ a ∧ a < regionBase cfg r + regionWindow r) := by
  simp only [inWindows, List.any_eq_false, inWindow_iff]

theorem inCapacity_eq_false_iff (cfg : Config) (r : Region) (a : Nat) :
    inCapacity cfg r a = false ↔ ¬ (regionBase cfg r ≤ a ∧ a < regionBase cfg r + regionCapacity cfg r) := by
  rw [← inCapacity_iff, Bool.not_eq_true]

/-- The window of `LUMA` lies below those of the other memories (R86). -/
theorem luma_lt_regionBase {cfg : Config} {a : Nat} (ha : inWindow cfg .luma a = true) {r : Region}
    (hr : r ∈ [Region.imgbits, .symbits, .cw, .data, .text, .seg]) : a < regionBase cfg r := by
  have hluma : a < cfg.base + 0x01000000 + 0x1000000 := ((inWindow_iff cfg .luma a).mp ha).2
  have hbase : cfg.base + 0x02000000 ≤ regionBase cfg r := by
    simp only [List.mem_cons, List.not_mem_nil, or_false] at hr
    rcases hr with rfl | rfl | rfl | rfl | rfl | rfl <;> exact Nat.add_le_add_left (by norm_num) _
  omega

theorem luma_outside_outputs {cfg : Config} {a : Nat} (ha : inWindow cfg .luma a = true) (c : Command) :
    inWindows cfg (outputs c) a = false := by
  refine (inWindows_eq_false_iff ..).mpr fun r hr hin => absurd (luma_lt_regionBase ha ?_) (Nat.not_lt.mpr hin.1)
  cases c <;> simp only [outputs, List.mem_cons, List.not_mem_nil, or_false] at hr ⊢ <;> tauto

theorem luma_outside_mirror {cfg : Config} {a : Nat} (ha : inWindow cfg .luma a = true) :
    inWindows cfg [.cw, .data, .text, .seg] a = false := luma_outside_outputs ha .decodesym

theorem luma_outside_stored {cfg : Config} {a : Nat} (ha : inWindow cfg .luma a = true) {r : Region}
    (hr : r ∈ [Region.imgbits, .symbits, .cw, .data]) : inCapacity cfg r a = false :=
  (inCapacity_eq_false_iff ..).mpr fun hin =>
    absurd (luma_lt_regionBase ha (List.mem_append_left [.text, .seg] hr)) (Nat.not_lt.mpr hin.1)

/-- What EngineLeavesInputsAlone says of a step: the inputs of a command stay. -/
def InputsKept (s t : State) : Prop :=
  t.cfg = s.cfg ∧ t.imgWidth = s.imgWidth ∧ t.imgHeight = s.imgHeight ∧ t.hints = s.hints ∧ t.arg0 = s.arg0 ∧
    t.arg1 = s.arg1 ∧ t.irqEn = s.irqEn ∧ t.hosterr = s.hosterr ∧ t.host = s.host ∧ t.rdata = s.rdata ∧
    ∀ a, inWindow s.cfg .luma a = true → memRead t.mem a = memRead s.mem a

theorem raise_inputsKept (s : State) (ovf : Bool) (e : Exc) : InputsKept s (raise { s with candOvf := ovf } e) := by
  obtain ⟨-, hr⟩ | ⟨-, hr⟩ := raise_cases { s with candOvf := ovf } e
  · rw [hr]
    refine ⟨rfl, rfl, rfl, rfl, rfl, rfl, rfl, rfl, rfl, rfl, fun a ha => ?_⟩
    rw [mirrorEdge_mem, memRead_clearRegions, luma_outside_mirror ha, if_neg Bool.false_ne_true]
  · rw [hr]
    refine ⟨rfl, rfl, rfl, rfl, rfl, rfl, rfl, rfl, rfl, rfl, fun a ha => ?_⟩
    rw [endWithExc_mem, memRead_clearRegions, luma_outside_outputs ha, if_neg Bool.false_ne_true]

/-- Settles O42, for each of the engine's four effects. -/
theorem engineLeavesInputsAlone : Obligations.EngineLeavesInputsAlone := by
  intro s t hstep
  show InputsKept s t
  by_cases hbusy : s.st = .busy
  swap
  · rw [engineStep_of_not_busy hbusy] at hstep
    cases hstep
    exact ⟨rfl, rfl, rfl, rfl, rfl, rfl, rfl, rfl, rfl, rfl, fun _ _ => rfl⟩
  by_cases hstage : s.stage = .none
  · rw [engineStep_of_busy_none hbusy hstage] at hstep
    cases hstep
  obtain ⟨u, hu, heffect⟩ := engineStep_of_busy hbusy hstage
  cases hu.symm.trans hstep
  cases heffect with
  | advances t ha =>
    obtain ⟨r, hr, bs, hmem⟩ := ha.stored
    rw [ha.frame]
    refine ⟨rfl, rfl, rfl, rfl, rfl, rfl, rfl, rfl, rfl, rfl, fun a ha => ?_⟩
    show memRead t.mem a = _
    rw [hmem, memRead_storeBytes_out _ _ _ _ _ _ (luma_outside_stored ha hr)]
  | raises ovf e => exact raise_inputsKept s ovf e
  | enters => exact ⟨rfl, rfl, rfl, rfl, rfl, rfl, rfl, rfl, rfl, rfl, fun _ _ => rfl⟩
  | finishes => exact ⟨rfl, rfl, rfl, rfl, rfl, rfl, rfl, rfl, rfl, rfl, fun _ _ => rfl⟩

/-- Settles O43: only an appending instruction keeps the loop running. -/
theorem segmentsWriteOnlyTextAndSeg : Obligations.SegmentsWriteOnlyTextAndSeg := by
  intro s t hrun hstep hrun' a ha
  obtain ⟨u, hu, hloop⟩ := segmentStep_loopStep s
  rw [step, if_pos hrun, hu] at hstep
  cases hstep
  cases hloop with
  | ends n => cases hrun'
  | raises e =>
    obtain ⟨-, hr⟩ | ⟨-, hr⟩ := raise_cases s e <;> rw [hr] at hrun' <;> cases hrun'
  | appends t n len happ =>
    obtain ⟨text, entry, hmem⟩ := happ.stored
    have hout := (inWindows_eq_false_iff ..).mp ha
    have houtText : inCapacity s.cfg .text a = false := (inCapacity_eq_false_iff ..).mpr (hout .text (by simp))
    have houtSeg : inCapacity s.cfg .seg a = false := (inCapacity_eq_false_iff ..).mpr fun hin =>
      hout .seg (by simp) ⟨hin.1, hin.2.trans_le (Nat.add_le_add_left (by norm_num [regionCapacity, regionWindow]) _)⟩
    rw [hmem, memRead_storeBytes_out _ _ _ _ _ _ houtSeg, memRead_storeBytes_out _ _ _ _ _ _ houtText]

end Sys2Proof.Proofs
end

section
/-!
PROOFS about the segment instructions (`46_bitstream_parser.md` R430 to R448): what each appends, from the characters it
carries, and which operands raise.
-/

namespace Sys2Proof.Proofs

open Sys2Proof Sys2Proof.Machine Sys2Proof.Laws

/-! ## The text of the counted modes -/

/-- R134, R431: the groups of decimal digits give those digits in ASCII. -/
theorem numericText_digitGroups {ds : List Nat} (h : ∀ d ∈ ds, d < 10) :
    numericText ds.length (digitGroups ds) = .ok (ds.map digitByte) := by
  induction ds using digitGroups.induct with
  | case1 a b c rest ih =>
    have ha := h a (by simp)
    have hb := h b (by simp)
    have hc := h c (by simp)
    have hrest := ih fun d hd => h d (by simp [hd])
    have hundreds : (100 * a + 10 * b + c) / 100 = a := by omega
    have htens : (100 * a + 10 * b + c) / 10 % 10 = b := by omega
    have hones : (100 * a + 10 * b + c) % 10 = c := by omega
    simp only [digitGroups, List.length_cons, numericText, if_neg (show ¬ 100 * a + 10 * b + c ≥ 1000 by omega), hrest,
      hundreds, htens, hones, List.map_cons]
    rfl
  | case2 a b =>
    have ha := h a (by simp)
    have hb := h b (by simp)
    have htens : (10 * a + b) / 10 = a := by omega
    have hones : (10 * a + b) % 10 = b := by omega
    simp [digitGroups, numericText, show ¬ 100 ≤ 10 * a + b by omega, htens, hones]
  | case3 a =>
    have ha := h a (by simp)
    simp [digitGroups, numericText, show ¬ 10 ≤ a by omega]
  | case4 => rfl

/-- R135, R433: the groups of symbol indices give the symbols of the table. -/
theorem alnumText_symbolGroups {ks : List Nat} (h : ∀ k ∈ ks, k < 45) :
    alnumText ks.length (symbolGroups ks) = .ok (ks.map alnumByte) := by
  induction ks using symbolGroups.induct with
  | case1 a b rest ih =>
    have ha := h a (by simp)
    have hb := h b (by simp)
    have hrest := ih fun d hd => h d (by simp [hd])
    have hhigh : (45 * a + b) / 45 = a := by omega
    have hlow : (45 * a + b) % 45 = b := by omega
    simp only [symbolGroups, List.length_cons, alnumText, if_neg (show ¬ 45 * a + b ≥ 2025 by omega), hrest, hhigh, hlow,
      List.map_cons]
    rfl
  | case2 a =>
    have ha := h a (by simp)
    simp [symbolGroups, alnumText, show ¬ 45 ≤ a by omega]
  | case3 => rfl

/-- The two listings of the 45 symbols agree (R432). -/
theorem alnumByte_eq : ∀ k, k < 45 → alnumByte k = BitVec.ofNat 8 (symbolChars.getD k '?').toNat := by decide

theorem payloadBits_numeric (c : Nat) :
    payloadBits .numeric c = 10 * (c / 3) + [0, 4, 7].getD (c % 3) 0 := by
  have hc : c % 3 = 0 ∨ c % 3 = 1 ∨ c % 3 = 2 := by omega
  rcases hc with hc | hc | hc <;> simp [payloadBits, hc]

theorem shift_or_eq_add {q r d : Nat} (hd : r < d) (hle : d ≤ 256) : (q <<< 8) ||| r = q * 256 + r := by
  rw [← Nat.shiftLeft_add_eq_or_of_lt (show r < 2 ^ 8 by omega), Nat.shiftLeft_eq]

/-- The bytes of a code written with shifts and masks. -/
theorem codeBytes_eq (a : Nat) : codeBytes a = [BitVec.ofNat 8 (a >>> 8), BitVec.ofNat 8 (a &&& 0xFF)] := by
  rw [codeBytes, Nat.shiftRight_eq_div_pow, show (0xFF : Nat) = 2 ^ 8 - 1 from rfl, Nat.and_two_pow_sub_one_eq_mod]

theorem kanjiCode_eq (x : Nat) : kanjiCode x = twoByteCode 0xC0 0x1F00 0x8140 0xC140 x := by
  simp only [kanjiCode, twoByteCode, shift_or_eq_add (Nat.mod_lt x (show 0 < 0xC0 by decide)) (by decide)]

theorem hanziCode_eq (x : Nat) : hanziCode x = twoByteCode 0x60 0x0A00 0xA1A1 0xA6A1 x := by
  simp only [hanziCode, twoByteCode, shift_or_eq_add (Nat.mod_lt x (show 0 < 0x60 by decide)) (by decide)]

/-! ## Instructions that append text -/

/-- What an instruction that appends `c` bytes of text and takes `n` bits does. -/
theorem exec_appendsTo {s : State} {i : Instr} {mode cskind n c : Nat} {value : Word} {bs : List Byte}
    (hexec : exec i s = .next (textSegment s mode cskind value bs (segmentLength (tierOf s.bits.ver) i)))
    (hbits : segmentLength (tierOf s.bits.ver) i = n) (hcount : bs.length = c) (hwf : memWf s.mem = true)
    (hroom : roomFor s c) :
    ∃ t, exec i s = .next t ∧ AppendsTo s t (cursorPast s.bits n c) mode cskind value bs := by
  subst hbits hcount
  exact ⟨_, hexec, textSegment_appendsTo s mode cskind value bs _ hwf hroom⟩

/-- Settles O19: the groups give back the digits, and `textSegment` appends them. -/
theorem numericAppendsDigits : Obligations.NumericAppendsDigits := by
  intro s ds hds hwf hroom
  refine exec_appendsTo ?_ (by rw [segmentLength, payloadBits_numeric]) (List.length_map ..) hwf hroom
  simp only [exec, execNumeric, numericText_digitGroups hds, textOrRaise]
  rfl

/-- Settles O20: the groups give back the symbols, and `textSegment` appends them. -/
theorem alphanumericAppendsSymbols : Obligations.AlphanumericAppendsSymbols := by
  intro s ks hks hwf hroom
  refine exec_appendsTo ?_ (by rw [segmentLength, payloadBits]) (List.length_map ..) hwf hroom
  simp only [exec, execAlphanumeric, alnumText_symbolGroups hks, textOrRaise,
    List.map_congr_left fun k hk => alnumByte_eq k (hks k hk)]
  rfl

theorem hintCharset_setWidth (h : Word) : (hintCharset h).setWidth 32 = h >>> 8 := by
  apply BitVec.eq_of_toNat_eq
  have := h.isLt
  rw [hintCharset, BitVec.toNat_setWidth, BitVec.extractLsb'_toNat, BitVec.toNat_ushiftRight, Nat.shiftRight_eq_div_pow]
  omega

/-- Settles O21: the entry names the active ECI, the hint or neither by the same two tests. -/
theorem byteAppendsPayload : Obligations.ByteAppendsPayload := by
  intro s p hwf hroom
  refine exec_appendsTo ?_ (by rw [segmentLength, payloadBits]) rfl hwf hroom
  simp only [exec, execByte, byteValue, hintCharset_setWidth]
  rfl

/-- Settles O22: each code is the statement's `twoByteCode`, split into its two bytes. -/
theorem doubleByteModesAppend : Obligations.DoubleByteModesAppend := by
  intro s ks hwf hroom
  constructor
  · rw [show (ks.flatMap _ : List Byte) = kanjiText ks by simp only [kanjiText, codeBytes_eq, kanjiCode_eq]]
    exact exec_appendsTo rfl (by rw [segmentLength, payloadBits]) (kanjiText_length ks) hwf hroom
  · rw [show (ks.flatMap _ : List Byte) = hanziText ks by simp only [hanziText, codeBytes_eq, hanziCode_eq]]
    exact exec_appendsTo rfl (by rw [segmentLength, payloadBits]) (hanziText_length ks) hwf hroom

/-! ## Instructions that append an entry only -/

/-- Settles O23: the two bytes stand in the register in one order, in the entry in the other. -/
theorem structuredAppendRecords : Obligations.StructuredAppendRecords := by
  intro s q r hwf hroom
  have hvalue : ((q ++ r).setWidth 32 : Word) = (q.setWidth 32 <<< 8) ||| r.setWidth 32 := by
    apply BitVec.eq_of_toNat_eq
    have hq := q.isLt
    have hr := r.isLt
    have happ : (q ++ r).toNat < 2 ^ 32 := (q ++ r).isLt.trans (by norm_num)
    rw [BitVec.toNat_setWidth, Nat.mod_eq_of_lt happ, BitVec.toNat_append]
    simp only [BitVec.toNat_or, BitVec.toNat_shiftLeft, BitVec.toNat_setWidth, Nat.shiftLeft_eq]
    rw [Nat.mod_eq_of_lt (show q.toNat < 2 ^ 32 by omega), Nat.mod_eq_of_lt (show r.toNat < 2 ^ 32 by omega),
      Nat.mod_eq_of_lt (by omega)]
  rw [← hvalue]
  exact ⟨_, rfl, bareSegment_appendsTo s { s.bits with sa := r ++ q, saSeen := true } 0x3 ((q ++ r).setWidth 32) 20 rfl rfl
    hwf hroom⟩

/-- Settles O24: both are entries without text, after their own fields are written. -/
theorem fnc1Records : Obligations.Fnc1Records := by
  intro s a hwf hroom
  exact ⟨⟨_, rfl, bareSegment_appendsTo s { s.bits with fnc1a := true } 0x5 0 4 rfl rfl hwf hroom⟩,
    ⟨_, rfl, bareSegment_appendsTo s { s.bits with app := a, fnc1b := true } 0x9 (a.setWidth 32) 12 rfl rfl hwf hroom⟩⟩

/-- What the three legal lengths of a designator stand for (R139). -/
theorem exec_eci {d : EciDesignator} {e : BitVec 21} (h : eciValue d = some e) (s : State) :
    exec (.eci d) s = .next (bareSegment { s with bits := { s.bits with eciActive := true, eciValue := e, eciSeen := true } }
      0x7 (e.setWidth 32) (4 + eciBits d)) := by
  simp only [exec, execEci, h, segmentLength]

/-- Settles O25: each legal designator has a value and a length, and the rest is one case. -/
theorem eciActivatesCharset : Obligations.EciActivatesCharset := by
  intro s d e n hwf hroom hd
  have hvalue : eciValue d = some e ∧ eciBits d = n := by
    rcases hd with ⟨v, rfl, rfl, rfl⟩ | ⟨v, rfl, rfl, rfl⟩ | ⟨rfl, rfl⟩ <;> exact ⟨rfl, rfl⟩
  have hexec := exec_eci hvalue.1 s
  rw [hvalue.2] at hexec
  exact ⟨_, hexec, bareSegment_appendsTo s { s.bits with eciActive := true, eciValue := e, eciSeen := true } 0x7
    (e.setWidth 32) (4 + n) rfl rfl hwf hroom⟩

/-! ## Operands that raise -/

theorem numericText_of_illegal {c : Nat} {gs : List Nat} (hok : numGroupsOk c gs = true)
    (h : digitGroupIllegal c gs = true) : numericText c gs = .error .feValue := by
  induction c, gs using numGroupBits.induct with
  | case1 gs => simp [digitGroupIllegal] at h
  | case2 x xs => simpa [numericText, digitGroupIllegal] using h
  | case4 x xs => simpa [numericText, digitGroupIllegal] using h
  | case3 | case5 => simp [digitGroupIllegal] at h
  | case6 c x xs ih =>
    simp only [numericText]
    by_cases hx : x ≥ 1000
    · rw [if_pos hx]
    · simp only [numGroupsOk, if_neg hx, Bool.and_eq_true] at hok
      simp only [digitGroupIllegal, decide_eq_false hx, Bool.false_or] at h
      rw [if_neg hx, ih hok.2 h]
      rfl
  | case7 c => simp [digitGroupIllegal] at h

theorem alnumText_of_illegal {c : Nat} {gs : List Nat} (hok : alnumGroupsOk c gs = true)
    (h : symbolGroupIllegal c gs = true) : alnumText c gs = .error .feValue := by
  induction c, gs using alnumGroupBits.induct with
  | case1 gs => simp [symbolGroupIllegal] at h
  | case2 x xs => simpa [alnumText, symbolGroupIllegal] using h
  | case3 => simp [symbolGroupIllegal] at h
  | case4 c x xs ih =>
    simp only [alnumText]
    by_cases hx : x ≥ 2025
    · rw [if_pos hx]
    · simp only [alnumGroupsOk, if_neg hx, Bool.and_eq_true] at hok
      simp only [symbolGroupIllegal, decide_eq_false hx, Bool.false_or] at h
      rw [if_neg hx, ih hok.2 h]
      rfl
  | case5 c => simp [symbolGroupIllegal] at h

/-- Settles O27: a group out of range stops the text at `FE_VALUE`, the other two operands are refused as such. -/
theorem illegalOperandsRaise : Obligations.IllegalOperandsRaise := by
  refine fun s => ⟨fun tier c gs hwf h => ?_, fun tier c gs hwf h => ?_, fun subset ks hne => ?_,
    fun low => ⟨_, rfl, raise_raisesExc s .feEci⟩⟩
  · simp only [Instr.wf, Bool.and_eq_true] at hwf
    refine ⟨raise s .feValue, ?_, raise_raisesExc s _⟩
    simp only [exec, execNumeric, numericText_of_illegal hwf.2 h, textOrRaise]
  · simp only [Instr.wf, Bool.and_eq_true] at hwf
    refine ⟨raise s .feValue, ?_, raise_raisesExc s _⟩
    simp only [exec, execAlphanumeric, alnumText_of_illegal hwf.2 h, textOrRaise]
  · exact ⟨raise s .feHanziSubset, by simp only [exec, execHanzi, if_neg hne], raise_raisesExc s _⟩

/-- Settles O18: the stage after BITS is the end step, whatever the command. -/
theorem terminatorStops : Obligations.TerminatorStops := by
  intro s
  simp only [exec, execTerminator, finishBits, advance, nextStage_bits]
  rfl

end Sys2Proof.Proofs
end

section
/-!
PROOFS about the commands (`47_sequencer_commands.md` R470 to R488): acceptance, the checks that end a command at once, what
an accepted DECODE depends on, and the end step.
-/

namespace Sys2Proof.Proofs

open Sys2Proof Sys2Proof.Machine Sys2Proof.Laws

/-! ## The checks of acceptance (R473) -/

/-- What the acceptance step of a command checks, in the terms of the statements. -/
def ArgsLegal (s : State) : Command → Prop
  | .decodesym => 21 ≤ s.arg0.toNat ∧ s.arg0.toNat ≤ 177 ∧ s.arg0.toNat % 4 = 1
  | .rsdecode => 1 ≤ s.arg1.toNat ∧ s.arg1.toNat ≤ s.arg0.toNat ∧ s.arg0.toNat ≤ 255
  | .parsebits => 1 ≤ s.arg0.toNat ∧ s.arg0.toNat ≤ 2956 ∧ s.arg1.toNat < 1024 ∧ 1 ≤ s.arg1.toNat % 256 ∧
      s.arg1.toNat % 256 ≤ 40
  | .none | .decode | .binarize | .detect | .reserved => True

theorem argsOk_iff (s : State) (c : Command) : argsOk c s.arg0 s.arg1 = true ↔ ArgsLegal s c := by
  cases c with
  | parsebits =>
    simp only [argsOk, ArgsLegal, ← parsebits_arg1_iff, Bool.and_eq_true, decide_eq_true_eq]
    tauto
  | _ => simp [argsOk, ArgsLegal, and_assoc]

theorem hintsInvalid_eq_true_iff (h : Word) : hintsInvalid h = true ↔ ¬ HintsLegal h := by
  rw [← hintsInvalid_eq_false_iff, Bool.not_eq_false]

theorem word_eq_zero_iff (w : Word) : w = 0 ↔ w.toNat = 0 := by
  rw [← BitVec.toNat_inj]
  rfl

/-- The two size checks together are the frame's legality. -/
theorem frameLegal_iff (s : State) :
    FrameLegal s ↔ ¬ (s.imgWidth = 0 ∨ s.imgHeight = 0) ∧
      ¬ (s.cfg.maxW < s.imgWidth.toNat ∨ s.cfg.maxH < s.imgHeight.toNat) := by
  rw [FrameLegal, word_eq_zero_iff, word_eq_zero_iff]
  omega

theorem acceptCheck_eq_none {s : State} {c : Command} (hc : c ≠ .reserved)
    (hhints : checksHints c = true → HintsLegal s.hints) (hframe : checksSize c = true → FrameLegal s)
    (hargs : ArgsLegal s c) : acceptCheck c s = none := by
  rw [acceptCheck, if_neg hc, if_neg, if_neg, if_neg, if_pos ((argsOk_iff s c).mpr hargs)]
  · simpa using fun h => ((frameLegal_iff s).mp (hframe h)).2
  · simpa using fun h => ((frameLegal_iff s).mp (hframe h)).1
  · simpa [hintsInvalid_eq_false_iff] using hhints

theorem acceptCheck_eq_badHint {s : State} {c : Command} (hc : c ≠ .reserved) (hchecks : checksHints c = true)
    (hhints : ¬ HintsLegal s.hints) : acceptCheck c s = some .pvBadHint := by
  rw [acceptCheck, if_neg hc, if_pos (by rw [hchecks, Bool.true_and, hintsInvalid_eq_true_iff]; exact hhints)]

theorem acceptCheck_eq_badSize {s : State} {c : Command} (hc : c ≠ .reserved)
    (hhints : checksHints c = true → HintsLegal s.hints) (hchecks : checksSize c = true) (hframe : ¬ FrameLegal s) :
    acceptCheck c s = some (if s.imgWidth = 0 ∨ s.imgHeight = 0 then .pvZeroSize else .pvSizeRange) := by
  rw [acceptCheck, if_neg hc, if_neg (by simpa [hintsInvalid_eq_false_iff] using hhints)]
  by_cases hzero : s.imgWidth = 0 ∨ s.imgHeight = 0
  · rw [if_pos hzero, if_pos (by simpa [hchecks] using hzero)]
  · have hrange : s.cfg.maxW < s.imgWidth.toNat ∨ s.cfg.maxH < s.imgHeight.toNat := by
      by_contra hno
      exact hframe ((frameLegal_iff s).mpr ⟨hzero, hno⟩)
    rw [if_neg hzero, if_neg (by simpa [hchecks] using hzero), if_pos (by simpa [hchecks] using hrange)]

theorem acceptCheck_eq_badArg {s : State} {c : Command} (hc : c ≠ .reserved)
    (hhints : checksHints c = true → HintsLegal s.hints) (hframe : checksSize c = true → FrameLegal s)
    (hargs : ¬ ArgsLegal s c) : acceptCheck c s = some .pvBadArg := by
  rw [acceptCheck, if_neg hc, if_neg, if_neg, if_neg, if_neg (mt (argsOk_iff s c).mp hargs)]
  · simpa using fun h => ((frameLegal_iff s).mp (hframe h)).2
  · simpa using fun h => ((frameLegal_iff s).mp (hframe h)).1
  · simpa [hintsInvalid_eq_false_iff] using hhints

/-! ## Accepted and refused commands -/

theorem exec_accepts {s : State} {i : Instr} {c : Command} (hexec : exec i s = .next (issue s (accept s c)))
    (hidle : s.st ≠ .busy) (hcheck : acceptCheck c s = none) :
    exec i s = .next (accept s c) ∧ AcceptedAs s (accept s c) c (firstStage c) (outputs c) :=
  ⟨hexec.trans (by rw [issue_of_not_busy s _ hidle]), accept_acceptedAs s c hcheck⟩

theorem exec_refuses {s : State} {i : Instr} {c : Command} {e : Exc} (hexec : exec i s = .next (issue s (accept s c)))
    (hidle : s.st ≠ .busy) (hcheck : acceptCheck c s = some e) :
    exec i s = .next (accept s c) ∧ EndsWith s (accept s c) e false false (outputs c) :=
  ⟨hexec.trans (by rw [issue_of_not_busy s _ hidle]), accept_endsWith s c e hcheck⟩

/-- Settles O13: the checks pass, so each command is accepted as `accept_acceptedAs` says. -/
theorem commandsAccepted : Obligations.CommandsAccepted := by
  intro s hidle
  have accepts : ∀ (i : Instr) (c : Command), exec i s = .next (issue s (accept s c)) → c ≠ .reserved →
      (checksHints c = true → HintsLegal s.hints) → (checksSize c = true → FrameLegal s) → ArgsLegal s c →
      ∃ t, exec i s = .next t ∧ AcceptedAs s t c (firstStage c) (outputs c) := fun i c hexec hc hh hf ha =>
    ⟨_, exec_accepts hexec hidle (acceptCheck_eq_none hc hh hf ha)⟩
  refine ⟨fun hh hf => accepts _ .decode rfl (by decide) (fun _ => hh) (fun _ => hf) trivial,
    fun hf => accepts _ .binarize rfl (by decide) (fun h => by cases h) (fun _ => hf) trivial,
    fun hh hf => accepts _ .detect rfl (by decide) (fun _ => hh) (fun _ => hf) trivial,
    fun hh h1 h2 h3 => accepts _ .decodesym rfl (by decide) (fun _ => hh) (fun h => by cases h) ⟨h1, h2, h3⟩,
    fun h1 h2 h3 => ?_,
    fun hh h1 h2 h3 h4 h5 => accepts _ .parsebits rfl (by decide) (fun _ => hh) (fun h => by cases h) ⟨h1, h2, h3, h4, h5⟩⟩
  have hcheck : acceptCheck .rsdecode s = none :=
    acceptCheck_eq_none (by decide) (fun h => by cases h) (fun h => by cases h) ⟨h1, h2, h3⟩
  obtain ⟨hexec, hacc⟩ := exec_accepts (i := .rsdecode) rfl hidle hcheck
  exact ⟨_, hexec, hacc, by rw [accept, hcheck]; rfl⟩

/-- Settles O14: all nine forms are issued as the one reserved command, whose check fails first. -/
theorem reservedCommandsFatal : Obligations.ReservedCommandsFatal := by
  intro s i hidle hi
  have hexec : exec i s = .next (issue s (accept s .reserved)) := by
    simp only [List.mem_cons, List.not_mem_nil, or_false] at hi
    rcases hi with (rfl | rfl | rfl | rfl | rfl | rfl | rfl | rfl) | ⟨op, upper, rfl⟩ <;> rfl
  have hcheck : acceptCheck .reserved s = some .pvBadCmd := by rw [acceptCheck, if_pos rfl]
  obtain ⟨hexec', hends⟩ := exec_refuses hexec hidle hcheck
  exact ⟨_, hexec', hends, by rw [accept, hcheck]; rfl⟩

/-- Settles O15: the failing check decides the exception, whichever command it belongs to. -/
theorem badHintsAndFramesFatal : Obligations.BadHintsAndFramesFatal := by
  intro s i outs hidle
  have refuses : ∀ (j : Instr) (c : Command) (e : Exc), exec j s = .next (issue s (accept s c)) →
      acceptCheck c s = some e → ∃ t, exec j s = .next t ∧ EndsWith s t e false false (outputs c) :=
    fun j c e hexec hcheck => ⟨_, exec_refuses hexec hidle hcheck⟩
  refine ⟨fun hhints hi => ?_, fun hframe hi => ?_⟩
  · simp only [List.mem_cons, List.not_mem_nil, or_false, Prod.mk.injEq] at hi
    rcases hi with ⟨rfl, rfl⟩ | ⟨rfl, rfl⟩ | ⟨rfl, rfl⟩ | ⟨rfl, rfl⟩
    · exact refuses _ .decode _ rfl (acceptCheck_eq_badHint (by decide) rfl hhints)
    · exact refuses _ .detect _ rfl (acceptCheck_eq_badHint (by decide) rfl hhints)
    · exact refuses _ .decodesym _ rfl (acceptCheck_eq_badHint (by decide) rfl hhints)
    · exact refuses _ .parsebits _ rfl (acceptCheck_eq_badHint (by decide) rfl hhints)
  · simp only [List.mem_cons, List.not_mem_nil, or_false, Prod.mk.injEq] at hi
    rcases hi with ⟨⟨rfl, rfl⟩ | ⟨rfl, rfl⟩, hhints⟩ | ⟨rfl, rfl⟩
    · exact refuses _ .decode _ rfl (acceptCheck_eq_badSize (by decide) (fun _ => hhints) rfl hframe)
    · exact refuses _ .detect _ rfl (acceptCheck_eq_badSize (by decide) (fun _ => hhints) rfl hframe)
    · exact refuses _ .binarize _ rfl (acceptCheck_eq_badSize (by decide) (fun h => by cases h) rfl hframe)

/-- Settles O16: with the earlier checks passed, the argument check decides. -/
theorem badArgumentsFatal : Obligations.BadArgumentsFatal := by
  intro s hidle
  have refuses : ∀ (j : Instr) (c : Command), exec j s = .next (issue s (accept s c)) → c ≠ .reserved →
      (checksHints c = true → HintsLegal s.hints) → checksSize c = false → ¬ ArgsLegal s c →
      ∃ t, exec j s = .next t ∧ EndsWith s t .pvBadArg false false (outputs c) := fun j c hexec hc hh hsize ha =>
    ⟨_, exec_refuses hexec hidle (acceptCheck_eq_badArg hc hh (fun h => by simp [hsize] at h) ha)⟩
  exact ⟨fun hh ha => refuses _ .decodesym rfl (by decide) (fun _ => hh) rfl ha,
    fun ha => refuses _ .rsdecode rfl (by decide) (fun h => by cases h) rfl ha,
    fun hh ha => refuses _ .parsebits rfl (by decide) (fun _ => hh) rfl ha⟩

/-! ## What an accepted DECODE depends on -/

/-- A byte where there is no storage is never listed, and reads 0. -/
theorem memRead_of_no_storage {cfg : Config} {m : List Host.Cell} {a : Nat}
    (hm : (m.all fun c => hasStorage cfg c.1) = true) (ha : hasStorage cfg a = false) : memRead m a = 0 := by
  induction m with
  | nil => rfl
  | cons c t ih =>
    obtain ⟨b, v⟩ := c
    simp only [List.all_cons, Bool.and_eq_true] at hm
    have hne : b ≠ a := by
      rintro rfl
      exact Bool.false_ne_true (ha.symm.trans hm.1)
    rw [memRead, if_neg hne, ih hm.2]

/-- In a legal build every memory's storage lies in its window. -/
theorem regionCapacity_le_window {cfg : Config} (h : cfg.legal = true) (r : Region) :
    regionCapacity cfg r ≤ regionWindow r := by
  simp only [Config.legal, Bool.and_eq_true, decide_eq_true_eq] at h
  cases r <;> simp only [regionCapacity, regionWindow] <;> omega

/-- What an accepted DECODE leaves in memory: `LUMA` as it was, everything else 0. -/
theorem memRead_accepted_decode {s : State} (hlegal : s.cfg.legal = true) (hmem : memoryOk s = true) (a : Nat) :
    memRead (clearRegions s.cfg s.mem (outputs .decode)) a = if inWindow s.cfg .luma a then memRead s.mem a else 0 := by
  rw [memRead_clearRegions]
  by_cases hluma : inWindow s.cfg .luma a = true
  · rw [luma_outside_outputs hluma, if_neg Bool.false_ne_true, if_pos hluma]
  · rw [if_neg hluma]
    split
    · rfl
    · rename_i hout
      refine memRead_of_no_storage ((memoryOk_iff s).mp hmem).2 ?_
      by_contra hst
      rw [Bool.not_eq_false, hasStorage, List.any_eq_true] at hst
      obtain ⟨r, -, hin⟩ := hst
      have hcap := (inCapacity_iff s.cfg r a).mp hin
      have hwin : inWindow s.cfg r a = true :=
        (inWindow_iff ..).mpr ⟨hcap.1, hcap.2.trans_le (Nat.add_le_add_left (regionCapacity_le_window hlegal r) _)⟩
      cases r with
      | regs => exact absurd hcap (by simp [regionCapacity])
      | luma => exact hluma hwin
      | imgbits | symbits | cw | data | text | seg => exact hout (List.any_eq_true.mpr ⟨_, by decide, hwin⟩)

/-- Settles O17: both states prepare to the same registers, and their memories read alike. -/
theorem acceptedDecodeForgetsThePast : Obligations.AcceptedDecodeForgetsThePast := by
  intro s s' hlegal hcfg hmem hmem' hidle hidle' hhints hframe hw hh hhi hluma
  have hframe' : FrameLegal s' := by rw [FrameLegal, hw, hh, hcfg]; exact hframe
  have hcheck : acceptCheck .decode s = none :=
    acceptCheck_eq_none (by decide) (fun _ => hhints) (fun _ => hframe) trivial
  have hcheck' : acceptCheck .decode s' = none :=
    acceptCheck_eq_none (by decide) (fun _ => hhi ▸ hhints) (fun _ => hframe') trivial
  have hexec := (exec_accepts (i := .decode) rfl hidle hcheck).1
  have hexec' := (exec_accepts (i := .decode) rfl hidle' hcheck').1
  rw [accept, hcheck] at hexec
  rw [accept, hcheck'] at hexec'
  have hmems : clearRegions s.cfg s.mem (outputs .decode) = clearRegions s'.cfg s'.mem (outputs .decode) := by
    refine mem_ext _ _ (memWf_clearRegions _ _ _ ((memoryOk_iff s).mp hmem).1)
      (memWf_clearRegions _ _ _ ((memoryOk_iff s').mp hmem').1) fun a => ?_
    rw [memRead_accepted_decode hlegal hmem, memRead_accepted_decode (hcfg ▸ hlegal) hmem', hcfg]
    split
    · rename_i ha
      exact (hluma a ha).symm
    · rfl
  refine ⟨_, _, hexec, hexec', hmems, ?_⟩
  simp only [prepare, freshAttempt, freshInternal, hmems, hw, hh, hhi, hcfg]

end Sys2Proof.Proofs
end

section
/-!
PROOFS about single steps (`46_bitstream_parser.md` R421 to R422, `20_memory.md` R91, R92), the words of `CAUSE`, the end step
and reset.
-/

namespace Sys2Proof.Proofs

open Sys2Proof Sys2Proof.Machine Sys2Proof.Laws

/-! ## Encodings written out -/

/-- Settles O4, by running the decoder on each. -/
theorem sampleEncodingsDecode : Obligations.SampleEncodingsDecode := by
  unfold Obligations.SampleEncodingsDecode
  decide +kernel

/-! ## Steps -/

/-- What serving one event of the host is (R92), `rest` the events after it. -/
def serveEvent (s : State) (rest : List HostEvent) : HostEvent → Host.Outcome State Fault Refusal
  | .engine => engineStep { s with host := rest }
  | .read addr n => .next (hostRead { s with host := rest } addr n)
  | .write addr n v => hostWriteStep { s with host := rest } addr n v
  | .rst m => .next (resetTo s m rest)

/-- Outside the instruction loop the first event is served. -/
theorem step_of_event {s : State} {e : HostEvent} {rest : List HostEvent} (hrun : s.bits.running = false)
    (hhost : s.host = e :: rest) : step s = serveEvent s rest e := by
  rw [step, if_neg (by simp [hrun]), hhost]
  cases e <;> rfl

theorem step_of_running {s : State} (hrun : s.bits.running = true) : step s = segmentStep s := by
  rw [step, if_pos hrun]

/-- Settles O5: the event is a write of `CMD`, which is decoded and executed. -/
theorem stepRunsCommandWord : Obligations.StepRunsCommandWord := by
  intro s a w rest hrun ha hhost
  have hcmd : isCmdWrite { s with host := rest } a .b4 = true := by simp [isCmdWrite, ha]
  rw [step_of_event hrun hhost]
  dsimp only [serveEvent, hostWriteStep]
  rw [if_pos hcmd]

/-- Settles O6: the fetch is the decoder at the cursor. -/
theorem stepRunsSegment : Obligations.StepRunsSegment := by
  intro s i hrun hdecode
  have hfetch : fetchSegment s = .ok i := hdecode
  rw [step_of_running hrun, segmentStep, hfetch]

/-- Settles O7: the decoder finds the end of the data before it reads anything. -/
theorem stepStopsAtStreamEnd : Obligations.StepStopsAtStreamEnd := by
  intro s hrun hend
  have hfetch : fetchSegment s = .error .endOfStream := by
    rw [fetchSegment, decodeSegment, if_pos (by rw [streamEnd]; exact hend)]
  rw [step_of_running hrun, segmentStep, hfetch]
  simp only [noSegment, finishBits, nextStage_bits]

/-- Settles O8: the decoder's answer is raised, by the rule of `raise`. -/
theorem stepRaisesTruncated : Obligations.StepRaisesTruncated := by
  intro s hrun hdecode
  have hfetch : fetchSegment s = .error .truncated := hdecode
  refine ⟨raise s .feTruncated, ?_, raise_raisesExc s _⟩
  rw [step_of_running hrun, segmentStep, hfetch]
  rfl

/-- Settles O9: each event is served as `serveEvent` says. -/
theorem stepServesEventsInOrder : Obligations.StepServesEventsInOrder := by
  intro s rest hrun
  refine ⟨fun hhost => ?_, fun hhost => step_of_event hrun hhost, fun a n hhost => step_of_event hrun hhost,
    fun a n v hhost hne => ?_, fun m hhost => ⟨_, step_of_event hrun hhost, rfl, rfl⟩⟩
  · rw [step, if_neg (by simp [hrun]), hhost]
  · have hcmd : isCmdWrite { s with host := rest } a n = false := by
      rw [isCmdWrite, Bool.and_eq_false_iff, decide_eq_false_iff_not, decide_eq_false_iff_not]
      exact hne
    rw [step_of_event hrun hhost]
    dsimp only [serveEvent, hostWriteStep]
    rw [if_neg (by simp [hcmd])]

/-! ## The words of `CAUSE` -/

/-- Settles O29: the words are computed, the outcome is read off each exception's kind. -/
theorem causeWords : Obligations.CauseWords := by
  refine ⟨by decide +kernel, rfl, fun e => ?_⟩
  cases e <;> simp [excState, excKind, excIrq]

/-! ## The end step -/

/-- Settles O30, command by command. -/
theorem endStepReports : Obligations.EndStepReports := by
  intro s u hturn hbusy hstage
  have hstep : step s = .next (endStep u) := by
    rw [step_of_engineTurn s u hturn, engineStep, if_pos hbusy, hstage]
  refine ⟨endStep u, hstep, by rw [endStep, ← hstage]; rfl, ?_, ?_, ?_, ?_, ?_, ?_⟩ <;> intro hcmd <;>
    simp [endStep, finalResults, unitResults, detResults, symResults, bitsResults, reportsDet, reportsSym, reportsBits,
      symDim, dataLength, hcmd]

/-! ## Reset -/

theorem pointCoord_default (p : Fin 4) (isY : Bool) : pointCoord {} p isY = 0#64 := by
  cases isY <;> match p with
    | 0 | 1 | 2 | 3 => rfl

/-- After a reset every register but `ID` reads 0. -/
theorem readReg_resetTo (s : State) (m : List Host.Cell) (rest : List HostEvent) {r : Reg} (hr : r ≠ .id) :
    readReg (resetTo s m rest) r = 0 := by
  cases r with
  | id => exact absurd rfl hr
  | ptLow p y =>
    show (pointCoord {} p y).extractLsb' 0 32 = 0
    rw [pointCoord_default]
    decide
  | ptHigh p y =>
    show (pointCoord {} p y).extractLsb' 32 32 = 0
    rw [pointCoord_default]
    decide
  | moduleSizeLow => show (0#64).extractLsb' 0 32 = 0; decide
  | moduleSizeHigh => show (0#64).extractLsb' 32 32 = 0; decide
  | _ => simp [readReg, statusWord, causeWord, formatWord, flagsWord, saWord, runStateCode, stageCode, resetTo,
      State.resetWith]

theorem irqLine_resetTo (s : State) (m : List Host.Cell) (rest : List HostEvent) : irqLine (resetTo s m rest) = false := by
  simp [irqLine, resetTo, State.resetWith]

/-- Settles O36: the reset state is the same for every state but for the build, the memory and the events left. -/
theorem resetValues : Obligations.ResetValues := by
  intro s m rest hrun hhost
  exact ⟨_, step_of_event hrun hhost, rfl, rfl, irqLine_resetTo s m rest, rfl, fun r hr => readReg_resetTo s m rest hr⟩

end Sys2Proof.Proofs
end

section
/-!
PROOFS about the host port (`10_state.md` R21 to R39, `20_memory.md` R80 to R93): where the regions lie, what the registers
read as and take, which accesses are ignored, and the bytes of the memories.
-/

namespace Sys2Proof.Proofs

open Sys2Proof Sys2Proof.Machine Sys2Proof.Laws

/-! ## Regions (R86) -/

theorem regionBase_eq (cfg : Config) (r : Region) : regionBase cfg r = cfg.base + regionBase Config.hw r := by
  cases r <;> simp [regionBase, Config.hw]

/-- The windows do not overlap: of two regions one ends before the other begins. -/
theorem regions_apart {r r' : Region} (h : r ≠ r') :
    regionBase Config.hw r + regionWindow r ≤ regionBase Config.hw r' ∨
      regionBase Config.hw r' + regionWindow r' ≤ regionBase Config.hw r := by
  revert h
  cases r <;> cases r' <;> decide

theorem inWindow_unique {cfg : Config} {r r' : Region} {a : Nat} (h : inWindow cfg r a = true)
    (h' : inWindow cfg r' a = true) : r = r' := by
  by_contra hne
  have hapart := regions_apart hne
  rw [inWindow_iff, regionBase_eq] at h h'
  omega

theorem regionOf_eq_some_iff {cfg : Config} {r : Region} {a : Nat} : regionOf cfg a = some r ↔ inWindow cfg r a = true := by
  have hfound : ∀ r, regionOf cfg a = some r → inWindow cfg r a = true := fun r h =>
    List.find?_some (p := fun r => inWindow cfg r a) h
  refine ⟨hfound r, fun h => ?_⟩
  cases hfind : regionOf cfg a with
  | none =>
    have hnone := List.find?_eq_none.mp hfind r (by cases r <;> decide)
    exact absurd h hnone
  | some r' => rw [inWindow_unique (hfound r' hfind) h]

theorem regionOf_register {cfg : Config} {a off : Nat} (ha : a = cfg.base + off) (hoff : off < 0x100) :
    regionOf cfg a = some .regs :=
  regionOf_eq_some_iff.mpr ((inWindow_iff ..).mpr
    ⟨show cfg.base ≤ a by omega, show a < cfg.base + 0x100 by omega⟩)

/-! ## The register map -/

theorem toNat_append_eq_add {m n : Nat} (x : BitVec m) (y : BitVec n) : (x ++ y).toNat = x.toNat * 2 ^ n + y.toNat := by
  rw [BitVec.toNat_append, ← Nat.shiftLeft_add_eq_or_of_lt y.isLt, Nat.shiftLeft_eq]

theorem statusWord_eq (s : State) :
    statusWord s = 0#21 ++ BitVec.ofBool s.candOvf ++ BitVec.ofBool s.hosterr ++ BitVec.ofBool s.pass
      ++ BitVec.ofNat 4 ([Stage.none, .bin, .det, .parse, .readcw, .ec, .bits, .fin].idxOf s.stage) ++ 0#1
      ++ BitVec.ofNat 3 ([RunState.idle, .busy, .done, .fail, .fatal].idxOf s.st) := by
  unfold statusWord
  cases s.candOvf <;> cases s.hosterr <;> cases s.pass <;> cases s.stage <;> cases s.st <;> rfl

theorem flagsWord_eq (f : Flags) :
    flagsWord f = 0#25 ++ BitVec.ofBool f.eciSeen ++ BitVec.ofBool f.binPath
      ++ BitVec.ofBool f.alignFound ++ BitVec.ofBool f.saPresent
      ++ BitVec.ofBool f.fnc1Second ++ BitVec.ofBool f.fnc1First
      ++ BitVec.ofBool f.mirrored := by
  obtain ⟨a, b, c, d, e, g, h⟩ := f
  revert a b c d e g h
  decide

theorem formatWord_eq (r : Results) : formatWord r = 0#27 ++ r.mask ++ r.ecbits := by
  apply BitVec.eq_of_toNat_eq
  have := r.mask.isLt
  have := r.ecbits.isLt
  rw [formatWord, BitVec.toNat_ofNat, toNat_append_eq_add, toNat_append_eq_add, BitVec.toNat_zero]
  omega

theorem saWord_eq (r : Results) : saWord r = 0#16 ++ r.saParity ++ r.saSeq := by
  apply BitVec.eq_of_toNat_eq
  have := r.saParity.isLt
  have := r.saSeq.isLt
  rw [saWord, BitVec.toNat_ofNat, toNat_append_eq_add, toNat_append_eq_add, BitVec.toNat_zero]
  omega

theorem zero_append_eq_setWidth {n v : Nat} (x : BitVec v) : 0#n ++ x = x.setWidth (n + v) := by
  apply BitVec.eq_of_toNat_eq
  have := x.isLt
  have := Nat.pow_le_pow_right (show 0 < 2 by decide) (show v ≤ n + v by omega)
  rw [toNat_append_eq_add, BitVec.toNat_zero, BitVec.toNat_setWidth, Nat.mod_eq_of_lt (by omega), Nat.zero_mul, Nat.zero_add]

/-- The registers by offset, in the order of the map (R39). -/
def registerOffsets : List (Nat × Reg) :=
  [(0x00, .id), (0x04, .cmd), (0x08, .status), (0x0C, .cause), (0x10, .imgWidth), (0x14, .imgHeight), (0x18, .hints),
    (0x1C, .irqEn), (0x20, .irqPend), (0x24, .arg0), (0x28, .arg1), (0x30, .resDim), (0x34, .resVersion),
    (0x38, .resFormat), (0x3C, .resFlags), (0x40, .resTextLen), (0x44, .resRawLen), (0x48, .resNumBits),
    (0x4C, .resErrors), (0x50, .resNseg), (0x54, .resSa), (0x58, .resFnc1App), (0x5C, .resNpoints), (0x60, .resNcw),
    (0x64, .resBitpos), (0x68, .resNcand), (0x80, .ptLow 0 false), (0x84, .ptHigh 0 false), (0x88, .ptLow 0 true),
    (0x8C, .ptHigh 0 true), (0x90, .ptLow 1 false), (0x94, .ptHigh 1 false), (0x98, .ptLow 1 true),
    (0x9C, .ptHigh 1 true), (0xA0, .ptLow 2 false), (0xA4, .ptHigh 2 false), (0xA8, .ptLow 2 true),
    (0xAC, .ptHigh 2 true), (0xB0, .ptLow 3 false), (0xB4, .ptHigh 3 false), (0xB8, .ptLow 3 true),
    (0xBC, .ptHigh 3 true), (0xC0, .moduleSizeLow), (0xC4, .moduleSizeHigh)]

theorem regAt_registerOffsets : ∀ p ∈ registerOffsets, p.1 < 0x100 ∧ regAt p.1 = some p.2 := by decide

/-- The map of the statement lists the registers of the model, with what they read as. -/
theorem registerWords_eq (s : State) : registerWords s = registerOffsets.map fun p => (p.1, readReg s p.2) := by
  simp only [registerWords, ← statusWord_eq, ← flagsWord_eq, ← formatWord_eq, ← saWord_eq]
  simp only [zero_append_eq_setWidth]
  rfl

/-- A legal read of a register (R84). -/
theorem hostRead_register {s : State} {a : Word} {off : Nat} {r : Reg} (halign : a.toNat % 4 = 0)
    (ha : a.toNat = s.cfg.base + off) (hoff : off < 0x100) (hreg : regAt off = some r) :
    hostRead s a .b4 = { s with rdata := readReg s r } := by
  simp [hostRead, widthBytes, halign, regionOf_register ha hoff, show a.toNat - s.cfg.base = off by omega, hreg]

/-- A legal write of a register but `CMD` (R85). -/
theorem hostWrite_register {s : State} {a v : Word} {off : Nat} {r : Reg} (halign : a.toNat % 4 = 0)
    (ha : a.toNat = s.cfg.base + off) (hoff : off < 0x100) (hreg : regAt off = some r) :
    hostWrite s a .b4 v = writeReg s r v := by
  simp [hostWrite, widthBytes, halign, regionOf_register ha hoff, show a.toNat - s.cfg.base = off by omega, hreg]

/-- Settles O31: the statement's map lists the registers of the model. -/
theorem registerReads : Obligations.RegisterReads := by
  intro s a off w halign ha hmem
  rw [registerWords_eq, List.mem_map] at hmem
  obtain ⟨⟨off', r⟩, hin, heq⟩ := hmem
  cases heq
  obtain ⟨hoff, hreg⟩ := regAt_registerOffsets _ hin
  exact hostRead_register halign ha hoff hreg

/-! ## Writing registers -/

theorem step_of_write_register {s : State} {a v : Word} {rest : List HostEvent} {off : Nat} {r : Reg}
    (hrun : s.bits.running = false) (halign : a.toNat % 4 = 0) (hhost : s.host = .write a .b4 v :: rest)
    (ha : a.toNat = s.cfg.base + off) (hoff : off < 0x100) (hcmd : off ≠ 4) (hreg : regAt off = some r) :
    step s = .next (writeReg { s with host := rest } r v) := by
  have hne : isCmdWrite { s with host := rest } a .b4 = false := by
    rw [isCmdWrite, Bool.and_eq_false_iff, decide_eq_false_iff_not]
    exact .inl fun h => hcmd (by dsimp only at h; omega)
  rw [step_of_event hrun hhost]
  dsimp only [serveEvent, hostWriteStep]
  rw [if_neg (by simp [hne]), hostWrite_register (s := { s with host := rest }) halign ha hoff hreg]

/-- Settles O32: a write of an operand register is `writeOperand`, which looks at BUSY only. -/
theorem operandRegistersLocked : Obligations.OperandRegistersLocked := by
  intro s a v rest hrun halign hhost
  refine ⟨fun hbusy off hoff ha => ?_, fun hidle => ⟨fun ha => ?_, fun ha => ?_, fun ha => ?_, fun ha => ?_, fun ha => ?_⟩⟩
  · have locked : ∀ r, regAt off = some r → off < 0x100 → off ≠ 4 →
        writeReg { s with host := rest } r v = setHosterr { s with host := rest } →
        step s = .next { s with host := rest, hosterr := true } := fun r hreg hlt hcmd hwrite => by
      rw [step_of_write_register hrun halign hhost ha hlt hcmd hreg, hwrite, setHosterr]
    simp only [List.mem_cons, List.not_mem_nil, or_false] at hoff
    rcases hoff with rfl | rfl | rfl | rfl | rfl <;>
      exact locked _ rfl (by decide) (by decide) (if_pos hbusy)
  all_goals
    rw [step_of_write_register hrun halign hhost ha (by decide) (by decide) rfl]
    exact congrArg Host.Outcome.next (if_neg hidle)

theorem ne_zero_iff_exists_bit {n : Nat} (x : BitVec n) : x ≠ 0 ↔ ∃ k, k < n ∧ x.getLsbD k = true := by
  rw [← not_iff_not, not_not]
  push Not
  refine ⟨fun h k _ => by simp [h], fun h => BitVec.eq_of_getLsbD_eq fun k hk => ?_⟩
  simpa using h k hk

/-- Settles O33: neither register looks at BUSY; the bits cleared and the line are taken bit by bit. -/
theorem interruptRegisters : Obligations.InterruptRegisters := by
  intro s a v rest hrun halign hhost
  refine ⟨fun ha => step_of_write_register hrun halign hhost ha (by decide) (by decide) rfl, fun ha =>
    ⟨_, step_of_write_register hrun halign hhost ha (by decide) (by decide) rfl, rfl, fun k hk => ?_⟩, ?_⟩
  · simp [writeReg, hk]
  · rw [irqLine, bne_iff_ne, ne_zero_iff_exists_bit]
    refine exists_congr fun k => and_congr_right fun hk => ?_
    simp [hk]

/-! ## Ignored accesses -/

/-- An access the host port refuses whether it reads or writes. -/
def Refused (s : State) (a : Nat) (n : Width) : Prop :=
  a % widthBytes n ≠ 0 ∨ regionOf s.cfg a = none ∨ (regionOf s.cfg a = some .regs ∧ n ≠ .b4) ∨
    (s.st = .busy ∧ regionOf s.cfg a ≠ some .regs) ∨
    regionOf s.cfg a = some .regs ∧ regAt (a - s.cfg.base) = none

theorem hostRead_of_refused {s : State} {a : Word} {n : Width} (h : Refused s a.toNat n) :
    hostRead s a n = refusedRead s := by
  unfold hostRead
  dsimp only
  split
  · rfl
  rename_i halign
  rcases h with h | h | ⟨h, hn⟩ | ⟨hbusy, h⟩ | ⟨h, hreg⟩
  · exact absurd h halign
  · rw [h]
  · simp only [h, if_pos hn]
  · split
    · rfl
    · rename_i hregs
      exact absurd hregs h
    · rw [if_pos hbusy]
  · simp only [h, hreg, ite_self]

theorem hostWrite_of_refused {s : State} {a v : Word} {n : Width} (h : Refused s a.toNat n) :
    hostWrite s a n v = setHosterr s := by
  unfold hostWrite
  dsimp only
  split
  · rfl
  rename_i halign
  rcases h with h | h | ⟨h, hn⟩ | ⟨hbusy, h⟩ | ⟨h, hreg⟩
  · exact absurd h halign
  · rw [h]
  · simp only [h, if_pos hn]
  · split
    · rfl
    · rename_i hregs
      exact absurd hregs h
    · rw [if_pos hbusy, ite_self]
  · simp only [h, hreg, ite_self]

/-- A write of a memory the host may only read (R82). -/
theorem hostWrite_of_readOnly_memory {s : State} {a v : Word} {n : Width} {r : Region}
    (h : regionOf s.cfg a.toNat = some r) (hr : r = .text ∨ r = .seg) : hostWrite s a n v = setHosterr s := by
  rcases hr with rfl | rfl <;> simp [hostWrite, h, hostWritable]

/-- Is the register one that no write changes (R21)? -/
def ignoresWrites : Reg → Bool
  | .imgWidth | .imgHeight | .hints | .irqEn | .irqPend | .arg0 | .arg1 => false
  | _ => true

theorem writeReg_of_ignoresWrites {r : Reg} (h : ignoresWrites r = true) (s : State) (v : Word) :
    writeReg s r v = setHosterr s := by
  cases r <;> simp_all [ignoresWrites, writeReg]

theorem hostWrite_of_readOnly_register {s : State} {a v : Word} {n : Width} {off : Nat}
    (ha : a.toNat = s.cfg.base + off) (hoff : off < 0x100) (h : (regAt off).all ignoresWrites = true) :
    hostWrite s a n v = setHosterr s := by
  unfold hostWrite
  dsimp only
  split
  · rfl
  rw [regionOf_register ha hoff, show a.toNat - s.cfg.base = off by omega]
  dsimp only
  split
  · rfl
  cases hreg : regAt off with
  | none => rfl
  | some r =>
    rw [hreg] at h
    exact writeReg_of_ignoresWrites h s v

theorem regAt_reserved : ∀ off ∈ [0x2C, 0x6C, 0x70, 0x74, 0x78, 0x7C, 0xC8, 0xCC, 0xD0, 0xD4, 0xD8, 0xDC, 0xE0, 0xE4, 0xE8,
    0xEC, 0xF0, 0xF4, 0xF8, 0xFC], off < 0x100 ∧ regAt off = none := by decide

theorem regAt_readOnly : ∀ off ∈ [0x00, 0x08, 0x0C, 0x30, 0x34, 0x38, 0x3C, 0x40, 0x44, 0x48, 0x4C, 0x50, 0x54, 0x58, 0x5C,
    0x60, 0x64, 0x68, 0x80, 0x84, 0x88, 0x8C, 0x90, 0x94, 0x98, 0x9C, 0xA0, 0xA4, 0xA8, 0xAC, 0xB0, 0xB4, 0xB8, 0xBC, 0xC0,
    0xC4], off < 0x100 ∧ (regAt off).all ignoresWrites = true := by decide

/-- Settles O34: each access either meets a condition of `Refused` or writes what cannot be written. -/
theorem illegalAccessesIgnored : Obligations.IllegalAccessesIgnored := by
  refine fun s a n v => ⟨fun h => ?_, fun h => ?_⟩
  · have href : Refused s a.toNat n := by
      refine h.imp_right (Or.imp_right (Or.imp_right (Or.imp_right fun hres => ?_)))
      obtain ⟨off, hin, ha⟩ := hres
      obtain ⟨hoff, hnone⟩ := regAt_reserved off hin
      exact ⟨regionOf_register ha hoff, by rwa [show a.toNat - s.cfg.base = off by omega]⟩
    exact ⟨hostRead_of_refused href, hostWrite_of_refused href⟩
  · rcases h with h | h | ⟨off, hin, ha⟩
    · exact hostWrite_of_readOnly_memory h (.inl rfl)
    · exact hostWrite_of_readOnly_memory h (.inr rfl)
    · obtain ⟨hoff, hall⟩ := regAt_readOnly off hin
      exact hostWrite_of_readOnly_register ha hoff hall

/-! ## Words and bytes (R80) -/

theorem toNat_bytesWord_cons (b : Byte) {bs : List Byte} (h : (bytesWord bs).toNat < 2 ^ 24) :
    (bytesWord (b :: bs)).toNat = 256 * (bytesWord bs).toNat + b.toNat := by
  have hb := b.isLt
  show ((bytesWord bs <<< 8) ||| b.setWidth 32).toNat = _
  rw [BitVec.toNat_or, BitVec.toNat_shiftLeft, BitVec.toNat_setWidth, Nat.mod_eq_of_lt (show b.toNat < 2 ^ 32 by omega),
    Nat.shiftLeft_eq, Nat.mod_eq_of_lt (by omega), ← Nat.shiftLeft_eq, ← Nat.shiftLeft_add_eq_or_of_lt (by omega),
    Nat.shiftLeft_eq]
  omega

theorem bytesWord_lt {bs : List Byte} (h : bs.length ≤ 4) : (bytesWord bs).toNat < 256 ^ bs.length := by
  induction bs with
  | nil => decide
  | cons b bs ih =>
    have hlt := ih (by simp only [List.length_cons] at h; omega)
    have hb := b.isLt
    have hpow : 256 ^ bs.length ≤ 256 ^ 3 := Nat.pow_le_pow_right (by decide) (by simp only [List.length_cons] at h; omega)
    rw [toNat_bytesWord_cons b (by omega), List.length_cons, Nat.pow_succ]
    omega

/-- Byte `k` of a little-endian word. -/
theorem extract_bytesWord {bs : List Byte} {k : Nat} (h : bs.length ≤ 4) (hk : k < bs.length) :
    (bytesWord bs).extractLsb' (8 * k) 8 = bs.getD k 0 := by
  induction bs generalizing k with
  | nil => cases hk
  | cons b bs ih =>
    have hle : bs.length ≤ 3 := by simp only [List.length_cons] at h; omega
    have hlt := bytesWord_lt (show bs.length ≤ 4 by omega)
    have hpow : 256 ^ bs.length ≤ 256 ^ 3 := Nat.pow_le_pow_right (by decide) hle
    have hb := b.isLt
    apply BitVec.eq_of_toNat_eq
    rw [BitVec.extractLsb'_toNat, toNat_bytesWord_cons b (by omega), Nat.shiftRight_eq_div_pow]
    cases k with
    | zero =>
      rw [List.getD_cons_zero]
      omega
    | succ k =>
      have htail := congrArg BitVec.toNat (ih (k := k) (by omega) (by simp only [List.length_cons] at hk; omega))
      rw [BitVec.extractLsb'_toNat, Nat.shiftRight_eq_div_pow] at htail
      rw [List.getD_cons_succ, ← htail, show 2 ^ (8 * (k + 1)) = 256 * 2 ^ (8 * k) by rw [Nat.mul_add, Nat.pow_add]; omega,
        ← Nat.div_div_eq_div_mul, show (256 * (bytesWord bs).toNat + b.toNat) / 256 = (bytesWord bs).toNat by omega]

theorem wordBytes_getD (v : Word) {k n : Nat} (hk : k < n) (hn : n ≤ 4) :
    ((wordBytes v).take n).getD k 0 = v.extractLsb' (8 * k) 8 := by
  interval_cases n <;> interval_cases k <;> rfl

theorem widthBytes_le (n : Width) : 1 ≤ widthBytes n ∧ widthBytes n ≤ 4 := by cases n <;> decide

theorem length_memLoad (m : List Host.Cell) (a len : Nat) : (memLoad m a len).length = len := by simp [memLoad]

theorem memLoad_getD (m : List Host.Cell) (a : Nat) {k len : Nat} (hk : k < len) :
    (memLoad m a len).getD k 0 = memRead m (a + k) := by
  simp [memLoad, hk]

/-! ## Accesses to the memories -/

theorem hostRead_memory {s : State} {r : Region} {a : Word} {n : Width} (hidle : s.st ≠ .busy)
    (halign : a.toNat % widthBytes n = 0) (hr : r ≠ .regs) (hwin : inWindow s.cfg r a.toNat = true) :
    hostRead s a n = { s with rdata := bytesWord (memLoad s.mem a.toNat (widthBytes n)) } := by
  have hregion := regionOf_eq_some_iff.mpr hwin
  cases r <;> simp_all [hostRead]

theorem hostWrite_memory {s : State} {r : Region} {a v : Word} {n : Width} (hidle : s.st ≠ .busy)
    (halign : a.toNat % widthBytes n = 0) (hr : r ∈ [Region.luma, .imgbits, .symbits, .cw, .data])
    (hwin : inWindow s.cfg r a.toNat = true) :
    hostWrite s a n v =
      { s with mem := storeBytes s.cfg s.mem r (a.toNat - regionBase s.cfg r) ((wordBytes v).take (widthBytes n)) } := by
  have hregion := regionOf_eq_some_iff.mpr hwin
  cases r <;> simp_all [hostWrite, hostWritable]

/-- A byte of a window beyond the capacity in use has no storage (R86). -/
theorem no_storage_of_beyond {cfg : Config} {r : Region} {a : Nat} (hlegal : cfg.legal = true)
    (hwin : inWindow cfg r a = true) (hcap : inCapacity cfg r a = false) : hasStorage cfg a = false := by
  rw [hasStorage, List.any_eq_false]
  intro r' _ hin
  have hcap' := (inCapacity_iff cfg r' a).mp hin
  have hwin' : inWindow cfg r' a = true :=
    (inWindow_iff ..).mpr ⟨hcap'.1, hcap'.2.trans_le (Nat.add_le_add_left (regionCapacity_le_window hlegal r') _)⟩
  rw [inWindow_unique hwin' hwin, hcap] at hin
  cases hin

/-- Settles O35: the region is the one whose window holds the address; its bytes are those of the word, in order. -/
theorem hostMemoryAccesses : Obligations.HostMemoryAccesses := by
  intro s r a v n hidle halign hr hwin
  obtain ⟨-, hn⟩ := widthBytes_le n
  refine ⟨⟨_, hostRead_memory hidle halign hr hwin, ?_, fun k hk => ?_⟩, fun hwritable hwf =>
    ⟨_, hostWrite_memory hidle halign hwritable hwin, rfl, fun k hk => ?_, fun x hx => ?_⟩,
    fun hlegal hmem hcap => memRead_of_no_storage ((memoryOk_iff s).mp hmem).2 (no_storage_of_beyond hlegal hwin hcap)⟩
  · have hlt := bytesWord_lt (bs := memLoad s.mem a.toNat (widthBytes n)) (by rwa [length_memLoad])
    rwa [length_memLoad] at hlt
  · rw [extract_bytesWord (by rwa [length_memLoad]) (by rwa [length_memLoad]), memLoad_getD _ _ hk]
  all_goals
    obtain ⟨hbase, -⟩ := (inWindow_iff ..).mp hwin
    have hlen : ((wordBytes v).take (widthBytes n)).length = widthBytes n := by
      rw [List.length_take, show (wordBytes v).length = 4 from rfl]
      omega
    dsimp only
    rw [memRead_storeBytes _ _ _ _ _ _ hwf, hlen]
  · by_cases hcap : inCapacity s.cfg r (a.toNat + k) = true
    · rw [if_pos hcap, if_pos (by rw [inCapacity_iff] at hcap; omega),
        show a.toNat + k - (regionBase s.cfg r + (a.toNat - regionBase s.cfg r)) = k by omega, wordBytes_getD v hk hn]
    · rw [if_neg hcap, if_neg (by rw [inCapacity_iff] at hcap; omega)]
  · rw [Bool.and_eq_false_iff, decide_eq_false_iff_not, decide_eq_false_iff_not] at hx
    rw [if_neg (by omega)]

end Sys2Proof.Proofs
end

section
/-!
PROOFS about bit matrices (`10_state.md` R47) and the binarizer (`41_binarizer.md` R201 to R206).
-/

namespace Sys2Proof.Proofs

open Sys2Proof Sys2Proof.Machine Sys2Proof.Laws

/-! ## Packed matrices -/

/-- Entry `k` of part `i` of a list made of parts of one length. -/
theorem getD_flatMap_of_length {α β : Type} (f : α → List β) {n : Nat} (d : β) {l : List α}
    (hf : ∀ a ∈ l, (f a).length = n) {i k : Nat} (hi : i < l.length) (hk : k < n) :
    (l.flatMap f).getD (n * i + k) d = (f l[i]).getD k d := by
  induction l generalizing i with
  | nil => cases hi
  | cons a l ih =>
    have hlen : (f a).length = n := hf a (by simp)
    rw [List.flatMap_cons]
    cases i with
    | zero => rw [List.getD_append _ _ _ _ (by omega)]; simp
    | succ i =>
      have hle : (f a).length ≤ n * (i + 1) + k := by rw [hlen, Nat.mul_succ]; omega
      have hrest : n * (i + 1) + k - (f a).length = n * i + k := by rw [hlen, Nat.mul_succ]; omega
      rw [List.getD_append_right _ _ _ _ hle, hrest, ih (fun b hb => hf b (by simp [hb])) (by simpa using hi)]
      simp

/-- The byte of eight bits given by position, least significant first. -/
theorem getLsbD_foldl_bits (p : Nat → Bool) {n j : Nat} (hj : j < 8) :
    ((List.range n).foldl (fun v i => if p i then v ||| (1#8 <<< i) else v) 0#8).getLsbD j = (decide (j < n) && p j) := by
  induction n with
  | zero => simp
  | succ n ih =>
    rw [List.range_succ, List.foldl_append, List.foldl_cons, List.foldl_nil]
    have hlt : decide (j < n + 1) = (decide (j < n) || decide (j = n)) := by
      rw [Bool.eq_iff_iff]
      simp
      omega
    have hone : (1#8 <<< n).getLsbD j = decide (j = n) := by
      rw [BitVec.getLsbD_shiftLeft, BitVec.getLsbD_one, Bool.eq_iff_iff]
      simp
      omega
    rw [hlt]
    split
    · rename_i hp
      rw [BitVec.getLsbD_or, ih, hone]
      by_cases hjn : j = n
      · rw [hjn, hp]
        simp
      · simp [hjn]
    · rename_i hp
      rw [ih]
      by_cases hjn : j = n
      · rw [hjn, Bool.eq_false_of_not_eq_true hp]
        simp
      · simp [hjn]

theorem length_packRow (row : List Bool) (w : Nat) : (packRow row w).length = 4 * rowWords w := by simp [packRow]

/-- Bit `j` of byte `k` of a packed row is its entry `8k + j`. -/
theorem getLsbD_packRow (row : List Bool) {w k j : Nat} (hk : k < 4 * rowWords w) (hj : j < 8) :
    ((packRow row w).getD k 0).getLsbD j = row.getD (8 * k + j) false := by
  have hbyte : (packRow row w).getD k 0 =
      (List.range 8).foldl (fun v i => if row.getD (8 * k + i) false then v ||| (1#8 <<< i) else v) 0#8 := by
    simp [packRow, hk]
  rw [hbyte, getLsbD_foldl_bits (fun i => row.getD (8 * k + i) false) hj, decide_eq_true hj, Bool.true_and]

theorem length_packMatrix (rows : List (List Bool)) (w : Nat) : (packMatrix rows w).length = 4 * rowWords w * rows.length := by
  simp [packMatrix, List.length_flatMap, length_packRow, Nat.mul_comm]

/-- R47: a stored matrix reads back, where the region has room for it. -/
theorem matrixBit_storeBytes {cfg : Config} {m : List Host.Cell} {r : Region} {rows : List (List Bool)} {w x y : Nat}
    (hwf : memWf m = true) (hroom : 4 * (rowWords w * rows.length) ≤ regionCapacity cfg r) (hy : y < rows.length)
    (hx : x < 32 * rowWords w) :
    matrixBit cfg (storeBytes cfg m r 0 (packMatrix rows w)) r w x y = (rows.getD y []).getD x false := by
  have hk : x / 8 < 4 * rowWords w := by omega
  have hplace : 4 * (y * rowWords w) + x / 8 < 4 * (rowWords w * rows.length) := by
    have := Nat.mul_le_mul_left (rowWords w) hy
    rw [Nat.mul_succ, Nat.mul_comm (rowWords w) y] at this
    omega
  have hindex : 4 * (y * rowWords w) + x / 8 = 4 * rowWords w * y + x / 8 := by
    rw [Nat.mul_assoc, Nat.mul_comm y]
  rw [matrixBit, regionByte, memRead_storeBytes _ _ _ _ _ _ hwf, length_packMatrix, Nat.mul_assoc, if_pos (by omega),
    Nat.add_zero, Nat.add_sub_cancel_left, hindex, packMatrix,
    getD_flatMap_of_length _ _ (fun row _ => length_packRow row w) hy hk, getLsbD_packRow _ hk (Nat.mod_lt _ (by decide)),
    Nat.div_add_mod, ← List.getD_eq_getElem rows [] hy]

/-- Settles O46: a byte of the packed list is found by its row, a bit of it by its column. -/
theorem packedMatrixReadsBack : Obligations.PackedMatrixReadsBack :=
  fun _ _ _ _ _ _ _ hwf _ hroom hy hx => matrixBit_storeBytes hwf hroom hy hx

theorem matrixRows_getD (px : Nat → Nat → Bool) {w h x y : Nat} (hx : x < w) (hy : y < h) :
    ((matrixRows px w h).getD y []).getD x false = px x y := by
  simp [matrixRows, hx, hy]

theorem length_matrixRows (px : Nat → Nat → Bool) (w h : Nat) : (matrixRows px w h).length = h := by simp [matrixRows]

/-! ## The uniform frame -/

theorem isUniform_iff (lum : Nat → Nat → Nat) (w h : Nat) :
    isUniform lum w h = true ↔ ∀ x y, x < w → y < h → lum x y = lum 0 0 := by
  simp only [isUniform, frameSamples, List.all_eq_true, List.mem_flatMap, List.mem_map, List.mem_range, decide_eq_true_eq]
  constructor
  · exact fun h x y hx hy => h _ ⟨y, hy, x, hx, rfl⟩
  · rintro h v ⟨y, hy, x, hx, rfl⟩
    exact h x y hx hy

/-- The only exception of the global path. -/
theorem globalThreshold_error {cfg : Config} {hist : List Nat} {e : Exc} (h : globalThreshold cfg hist = .error e) :
    e = .nfBinContrast := by
  simp only [globalThreshold] at h
  split at h <;> cases h
  rfl

/-- Settles O44: the uniform test comes first, and no later exception is this one. -/
theorem uniformFrameRejected : Obligations.UniformFrameRejected := by
  intro cfg lum w h _ _
  rw [← isUniform_iff]
  unfold binarize
  cases huni : isUniform lum w h with
  | true => simp
  | false =>
    rw [if_neg (by simp)]
    refine iff_of_false (fun herr => ?_) (by simp)
    split at herr
    · cases herr
    · cases hgt : globalThreshold cfg (histogram cfg lum w h) with
      | error e =>
        rw [hgt] at herr
        cases globalThreshold_error hgt
        cases herr
      | ok gt =>
        rw [hgt] at herr
        cases herr

/-! ## The local path -/

theorem block_pos (cfg : Config) : 0 < cfg.block := Nat.two_pow_pos _

theorem blockCovers_iff (cfg : Config) (b n x : Nat) :
    blockCovers cfg b n x = true ↔ blockOrigin cfg b n ≤ x ∧ x < blockOrigin cfg b n + cfg.block := by
  rw [blockCovers, Bool.and_eq_true, decide_eq_true_eq, decide_eq_true_eq]

/-- The blocks that `coveringBlocks` lists and those of the frame are, among those that cover the coordinate, the same. -/
theorem mem_coveringBlocks_iff {cfg : Config} {b n x : Nat} (hx : x < n) (hn : cfg.block ≤ n)
    (hcov : blockCovers cfg b n x = true) : b ∈ coveringBlocks cfg x n ↔ b < subBlocks cfg n := by
  have hpos := block_pos cfg
  have hsub : ∀ k, k < subBlocks cfg n ↔ cfg.block * k < n := fun k => by
    rw [subBlocks, Nat.lt_iff_add_one_le, Nat.le_div_iff_mul_le hpos, Nat.add_mul, Nat.mul_comm k]
    omega
  have hlast : 0 < subBlocks cfg n := (hsub 0).mpr (by omega)
  have hdiv : x / cfg.block < subBlocks cfg n :=
    (hsub _).mpr (lt_of_le_of_lt (Nat.mul_div_le x cfg.block) hx)
  obtain ⟨hlo, hhi⟩ := (blockCovers_iff ..).mp hcov
  constructor
  · intro hmem
    simp only [coveringBlocks] at hmem
    split at hmem <;> simp only [List.mem_cons, List.not_mem_nil, or_false] at hmem
    · rcases hmem with rfl | rfl
      · exact hdiv
      · omega
    · exact hmem ▸ hdiv
  · intro hb
    by_cases hin : cfg.block * b + cfg.block ≤ n
    · have horigin : blockOrigin cfg b n = cfg.block * b := min_eq_left (by omega)
      have hbx : b = x / cfg.block := by
        rw [horigin] at hlo hhi
        exact (Nat.div_eq_of_lt_le (by rwa [Nat.mul_comm]) (by rw [Nat.add_mul, Nat.mul_comm b]; omega)).symm
      simp only [coveringBlocks]
      split <;> simp [hbx]
    · have hblast : b = subBlocks cfg n - 1 := by
        have hnot : ¬ b + 1 < subBlocks cfg n := fun h => by
          have := (hsub (b + 1)).mp h
          rw [Nat.mul_add] at this
          omega
        omega
      simp only [coveringBlocks, ← hblast, if_pos hlo]
      simp

theorem localPixel_iff {cfg : Config} {lum : Nat → Nat → Nat} {t : List (List Nat)} {w h x y : Nat} (hx : x < w) (hy : y < h)
    (hw : cfg.block ≤ w) (hh : cfg.block ≤ h) :
    localPixel cfg lum t w h x y = true ↔ ∃ bx by_, bx < subBlocks cfg w ∧ by_ < subBlocks cfg h ∧
      blockOrigin cfg bx w ≤ x ∧ x < blockOrigin cfg bx w + cfg.block ∧
      blockOrigin cfg by_ h ≤ y ∧ y < blockOrigin cfg by_ h + cfg.block ∧ lum x y ≤ gridAt t by_ bx := by
  simp only [localPixel, List.any_eq_true, Bool.and_eq_true, decide_eq_true_eq]
  constructor
  · rintro ⟨by_, hby, bx, hbx, ⟨hcx, hcy⟩, hle⟩
    obtain ⟨hx1, hx2⟩ := (blockCovers_iff ..).mp hcx
    obtain ⟨hy1, hy2⟩ := (blockCovers_iff ..).mp hcy
    exact ⟨bx, by_, (mem_coveringBlocks_iff hx hw hcx).mp hbx, (mem_coveringBlocks_iff hy hh hcy).mp hby, hx1, hx2, hy1,
      hy2, hle⟩
  · rintro ⟨bx, by_, hbx, hby, hx1, hx2, hy1, hy2, hle⟩
    have hcx := (blockCovers_iff cfg bx w x).mpr ⟨hx1, hx2⟩
    have hcy := (blockCovers_iff cfg by_ h y).mpr ⟨hy1, hy2⟩
    exact ⟨by_, (mem_coveringBlocks_iff hy hh hcy).mpr hby, bx, (mem_coveringBlocks_iff hx hw hcx).mpr hbx, ⟨hcx, hcy⟩, hle⟩

/-- Settles O45: the path is chosen by the size, and the blocks listed for a pixel are the ones that cover it. -/
theorem localPathClassifies : Obligations.LocalPathClassifies := by
  rintro cfg lum w h hw hh ⟨x0, y0, hx0, hy0, hne⟩
  have huni : isUniform lum w h = false := by
    rw [← Bool.not_eq_true, isUniform_iff]
    exact fun hall => hne (hall x0 y0 hx0 hy0)
  have hblock : cfg.block ≤ cfg.minDim := by rw [Config.minDim]; omega
  refine ⟨_, by rw [binarize, huni, if_neg Bool.false_ne_true, if_pos ⟨hw, hh⟩], rfl, length_matrixRows .., ?_⟩
  intro x y hx hy
  dsimp only
  rw [matrixRows_getD _ hx hy]
  exact localPixel_iff hx hy (hblock.trans hw) (hblock.trans hh)

end Sys2Proof.Proofs
end

section
/-!
PROOFS about what the detector and the matrix parser yield: the bounds of a detection (`42_finder_patterns.md` R246,
`43_geometry_sampling.md` R285, R286, R310) and the codes of format and version (`44_matrix_parser.md` R335, R340 to R342).
-/

namespace Sys2Proof.Proofs

open Sys2Proof Sys2Proof.Machine Sys2Proof.Laws

/-! ## Candidates (R245, R246) -/

/-- A merge replaces one entry. -/
theorem length_mergeFirst {nf : NumFmt} {x y ems : F64} {cs cs' : List Candidate} (h : mergeFirst nf x y ems cs = some cs') :
    cs'.length = cs.length := by
  induction cs generalizing cs' with
  | nil => cases h
  | cons c cs ih =>
    rw [mergeFirst] at h
    split at h
    · cases h
      rfl
    · obtain ⟨rest, hrest, rfl⟩ := Option.map_eq_some_iff.mp h
      rw [List.length_cons, List.length_cons, ih hrest]

theorem length_addCandidate {cfg : Config} {l : CandList} (h : l.cand.length ≤ cfg.maxCand) (x y ems : F64) :
    (addCandidate cfg l x y ems).cand.length ≤ cfg.maxCand := by
  unfold addCandidate
  split
  · rename_i cs hmerge
    exact (length_mergeFirst hmerge).trans_le h
  · split
    · rw [List.length_append]
      assumption
    · exact h

theorem length_handle {cfg : Config} {blk : Nat → Nat → Bool} {w h : Nat} {l l' : CandList} {sc : Runs} {i j : Nat}
    (hl : l.cand.length ≤ cfg.maxCand) (hh : handle cfg blk w h l sc i j = some l') : l'.cand.length ≤ cfg.maxCand := by
  unfold handle at hh
  dsimp only at hh
  split at hh
  · cases hh
  split at hh
  · cases hh
  split at hh <;> cases hh
  exact length_addCandidate hl _ _ _

theorem length_scanPixel {cfg : Config} {blk : Nat → Nat → Bool} {w h i : Nat} {s : ScanState}
    (hs : s.out.cand.length ≤ cfg.maxCand) (j : Nat) :
    (scanPixel cfg blk w h i s j).out.cand.length ≤ cfg.maxCand := by
  unfold scanPixel
  split
  · exact hs
  split
  · split
    · split
      · rename_i l hl
        split at hl
        · exact length_handle hs hl
        · cases hl
      · exact hs
    · exact hs
  · exact hs

theorem length_scanRow {cfg : Config} {blk : Nat → Nat → Bool} {w h : Nat} {l : CandList}
    (hl : l.cand.length ≤ cfg.maxCand) (i : Nat) : (scanRow cfg blk w h l i).cand.length ≤ cfg.maxCand := by
  have hscan : ((List.range w).foldl (scanPixel cfg blk w h i) { out := l }).out.cand.length ≤ cfg.maxCand :=
    List.foldlRecOn (motive := fun s : ScanState => s.out.cand.length ≤ cfg.maxCand) _ _ hl fun s hs j _ =>
      length_scanPixel hs j
  unfold scanRow
  dsimp only
  split
  · cases hh : handle cfg blk w h ((List.range w).foldl (scanPixel cfg blk w h i) { out := l }).out
        ((List.range w).foldl (scanPixel cfg blk w h i) { out := l }).sc i w with
    | none => exact hscan
    | some l' => exact length_handle hscan hh
  · exact hscan

theorem length_findCandidates (cfg : Config) (blk : Nat → Nat → Bool) (w h : Nat) (th : Bool) :
    (findCandidates cfg blk w h th).cand.length ≤ cfg.maxCand :=
  List.foldlRecOn (motive := fun l : CandList => l.cand.length ≤ cfg.maxCand) _ _ (Nat.zero_le _) fun _ hl i _ =>
    length_scanRow hl i

/-! ## Dimension and matrix (R285, R286, R310) -/

theorem snapDim_mod {d d' : Int} (h : snapDim d = some d') : d' % 4 = 1 := by
  unfold snapDim at h
  split at h
  · cases h; omega
  split at h
  · cases h; assumption
  split at h <;> cases h
  omega

theorem dimension_legal {nf : NumFmt} {o : Ordered} {ms : F64} {dim : Nat} (h : dimension nf o ms = .ok dim) :
    21 ≤ dim ∧ dim ≤ 177 ∧ dim % 4 = 1 := by
  unfold dimension at h
  split at h
  · cases h
  rename_i d hsnap
  have hmod := snapDim_mod hsnap
  split at h <;> cases h
  omega

theorem allSome_eq_some {α : Type} {l : List (Option α)} {r : List α} (h : allSome l = some r) :
    r.length = l.length ∧ ∀ a ∈ r, some a ∈ l := by
  induction l generalizing r with
  | nil => cases h; simp
  | cons o l ih =>
    cases o with
    | none => cases h
    | some a =>
      obtain ⟨rest, hrest, rfl⟩ := Option.map_eq_some_iff.mp h
      obtain ⟨hlen, hmem⟩ := ih hrest
      refine ⟨by rw [List.length_cons, List.length_cons, hlen], fun b hb => ?_⟩
      rcases List.mem_cons.mp hb with rfl | hb
      · simp
      · exact List.mem_cons_of_mem _ (hmem b hb)

theorem sampleGrid_square {nf : NumFmt} {blk : Nat → Nat → Bool} {xf : Transform} {w h dim : Nat} {rows : List (List Bool)}
    (hs : sampleGrid nf blk xf w h dim = some rows) : rows.length = dim ∧ ∀ row ∈ rows, row.length = dim := by
  obtain ⟨hlen, hmem⟩ := allSome_eq_some hs
  refine ⟨by simpa using hlen, fun row hrow => ?_⟩
  obtain ⟨y, -, hy⟩ := List.mem_map.mp (hmem row hrow)
  simpa using (allSome_eq_some hy).1

/-- Settles O48: the candidates by the scan's steps, the dimension by its snap, the matrix row by row. -/
theorem detectionIsLegal : Obligations.DetectionIsLegal := by
  refine ⟨length_findCandidates, fun nf o ms dim hdim => ?_, fun _ _ _ _ _ _ _ => sampleGrid_square⟩
  obtain ⟨hlo, hhi, hmod⟩ := dimension_legal hdim
  unfold provisionalVersion
  omega

/-! ## Distances of code words -/

theorem popcount18_xor_le (a b : Nat) : popcount18 (a ^^^ b) ≤ popcount18 a + popcount18 b := by
  simp only [popcount18, Nat.testBit_xor]
  induction List.range 18 with
  | nil => simp
  | cons i l ih =>
    simp only [List.countP_cons]
    cases a.testBit i <;> cases b.testBit i <;> simp <;> omega

theorem popcount18_triangle (a b r : Nat) : popcount18 (a ^^^ b) ≤ popcount18 (r ^^^ a) + popcount18 (r ^^^ b) := by
  have h := popcount18_xor_le (r ^^^ a) (r ^^^ b)
  have hcancel : r ^^^ a ^^^ (r ^^^ b) = a ^^^ b := by
    rw [Nat.xor_comm r a, Nat.xor_assoc, ← Nat.xor_assoc r, Nat.xor_self, Nat.zero_xor]
  rwa [hcancel] at h

/-- The format codes differ pairwise in at least 7 bits (R334). -/
theorem formatWords_apart : ∀ j k, j < 32 → k < 32 → popcount18 (formatWords.getD j 0 ^^^ formatWords.getD k 0) ≤ 6 →
    j = k := by
  have h : ∀ j < 32, ∀ k < 32, popcount18 (formatWords.getD j 0 ^^^ formatWords.getD k 0) ≤ 6 → j = k := by decide +kernel
  exact fun j k hj hk => h j hj k hk

/-- The version codes differ pairwise in at least 7 bits (R339). -/
theorem versionWords_apart : ∀ j k, j < 34 → k < 34 → popcount18 (versionWords.getD j 0 ^^^ versionWords.getD k 0) ≤ 6 →
    j = k := by
  have h : ∀ j < 34, ∀ k < 34, popcount18 (versionWords.getD j 0 ^^^ versionWords.getD k 0) ≤ 6 → j = k := by
    decide +kernel
  exact fun j k hj hk => h j hj k hk

/-! ## The search for the closest code -/

theorem closer_spec (b : Nat × Nat) (d k : Nat) :
    (closer b d k).1 ≤ b.1 ∧ (closer b d k).1 ≤ d ∧ (closer b d k = b ∨ closer b d k = (d, k)) := by
  unfold closer
  split
  · exact ⟨by dsimp only; omega, Nat.le_refl d, .inr rfl⟩
  · exact ⟨Nat.le_refl _, by omega, .inl rfl⟩

/-- A search whose step never moves away from the best, comes as close as `d` says, and keeps the best or takes the code in
hand, under its label, at a distance that is `near`, ends so. -/
theorem foldl_closest {f : Nat × Nat → Nat → Nat × Nat} {d label : Nat → Nat} {near : Nat → Nat → Prop}
    (hstep : ∀ b k, (f b k).1 ≤ b.1 ∧ (f b k).1 ≤ d k ∧ (f b k = b ∨ (f b k).2 = label k ∧ near k (f b k).1))
    (ks : List Nat) (b : Nat × Nat) :
    (ks.foldl f b).1 ≤ b.1 ∧ (∀ k ∈ ks, (ks.foldl f b).1 ≤ d k) ∧
      (ks.foldl f b = b ∨ ∃ k ∈ ks, (ks.foldl f b).2 = label k ∧ near k (ks.foldl f b).1) := by
  induction ks generalizing b with
  | nil => simp
  | cons k ks ih =>
    obtain ⟨hle, hd, hfrom⟩ := hstep b k
    obtain ⟨hle', hd', hfrom'⟩ := ih (f b k)
    rw [List.foldl_cons]
    refine ⟨hle'.trans hle, fun j hj => ?_, ?_⟩
    · rcases List.mem_cons.mp hj with rfl | hj
      · exact hle'.trans hd
      · exact hd' j hj
    · rcases hfrom' with hsame | ⟨j, hmem, hnear⟩
      · rw [hsame]
        exact hfrom.imp_right fun htaken => ⟨k, List.mem_cons_self, htaken⟩
      · exact .inr ⟨j, List.mem_cons_of_mem _ hmem, hnear⟩

/-- The distance of a format reading from a code (R335). -/
def formatDistance (f k : Nat) : Nat := popcount18 (f ^^^ 0x5412 ^^^ formatWords.getD k 0)

theorem bestFormat_spec (f1 f2 : Nat) :
    (∀ k, k < 32 → (bestFormat f1 f2).1 ≤ formatDistance f1 k) ∧
      (bestFormat f1 f2 = (16, 0) ∨ (bestFormat f1 f2).2 < 32 ∧
        ((bestFormat f1 f2).1 = formatDistance f1 (bestFormat f1 f2).2 ∨
          (bestFormat f1 f2).1 = formatDistance f2 (bestFormat f1 f2).2)) := by
  obtain ⟨-, hd, hfrom⟩ := foldl_closest (label := id) (near := fun k n => n = formatDistance f1 k ∨ n = formatDistance f2 k)
    (f := fun b k => closer (closer b (formatDistance f1 k) k) (formatDistance f2 k) k) (fun b k => by
      obtain ⟨hle, hd, hfrom⟩ := closer_spec b (formatDistance f1 k) k
      obtain ⟨hle', hd', hfrom'⟩ := closer_spec (closer b (formatDistance f1 k) k) (formatDistance f2 k) k
      refine ⟨hle'.trans hle, hle'.trans hd, ?_⟩
      rcases hfrom' with h | h <;> rw [h]
      · exact hfrom.imp_right fun h => by rw [h]; exact ⟨rfl, .inl rfl⟩
      · exact .inr ⟨rfl, .inr rfl⟩)
    (List.range 32) (16, 0)
  refine ⟨fun k hk => hd k (List.mem_range.mpr hk), hfrom.imp_right ?_⟩
  rintro ⟨k, hmem, hlabel, hnear⟩
  rw [id_eq] at hlabel
  rw [← hlabel] at hmem hnear
  exact ⟨List.mem_range.mp hmem, hnear⟩

/-- R335: readings close to one format code are matched to it. -/
theorem matchFormat_of_close {k f1 f2 : Nat} (hk : k < 32) (h1 : formatDistance f1 k ≤ 3) (h2 : formatDistance f2 k ≤ 3) :
    matchFormat f1 f2 = some k := by
  obtain ⟨hd, hfrom⟩ := bestFormat_spec f1 f2
  have hbest := (hd k hk).trans h1
  unfold matchFormat
  dsimp only
  generalize bestFormat f1 f2 = b at hbest hfrom
  rw [if_neg (by omega)]
  rcases hfrom with rfl | ⟨hlt, hnear⟩
  · simp at hbest
  have htri : ∀ f, popcount18 (formatWords.getD b.2 0 ^^^ formatWords.getD k 0) ≤
      formatDistance f b.2 + formatDistance f k := fun f => popcount18_triangle _ _ (f ^^^ 0x5412)
  have happart : popcount18 (formatWords.getD b.2 0 ^^^ formatWords.getD k 0) ≤ 6 := by
    rcases hnear with hn | hn
    · exact (htri f1).trans (by omega)
    · exact (htri f2).trans (by omega)
  rw [formatWords_apart b.2 k hlt hk happart]

/-- The distance of a version reading from a code, by its place in the table (R340). -/
def versionDistance (r k : Nat) : Nat := popcount18 (r ^^^ versionWords.getD k 0)

theorem bestVersion_spec (r : Nat) :
    (∀ k, k < 34 → (bestVersion r).1 ≤ versionDistance r k) ∧
      (bestVersion r = (19, 0) ∨ ∃ k, k < 34 ∧ (bestVersion r).2 = k + 7 ∧ (bestVersion r).1 = versionDistance r k) := by
  obtain ⟨-, hd, hfrom⟩ := foldl_closest (label := (· + 7)) (near := fun k n => n = versionDistance r k)
    (f := fun b k => closer b (versionDistance r k) (k + 7)) (fun b k => by
      obtain ⟨hle, hd, hfrom⟩ := closer_spec b (versionDistance r k) (k + 7)
      exact ⟨hle, hd, hfrom.imp_right fun h => by rw [h]; exact ⟨rfl, rfl⟩⟩)
    (List.range 34) (19, 0)
  refine ⟨fun k hk => hd k (List.mem_range.mpr hk), hfrom.imp_right ?_⟩
  rintro ⟨k, hmem, hlabel, hnear⟩
  exact ⟨k, List.mem_range.mp hmem, hlabel, hnear⟩

/-- R340: a reading close to the code of a version is matched to it. -/
theorem matchVersion_of_close {cfg : Config} {j r : Nat} (hcfg : cfg.versionMaxDiff ≤ 3) (hj : j < 34)
    (h : versionDistance r j ≤ cfg.versionMaxDiff) : matchVersion cfg r = some (j + 7) := by
  obtain ⟨hd, hfrom⟩ := bestVersion_spec r
  have hbest := (hd j hj).trans h
  unfold matchVersion
  dsimp only
  rw [if_pos hbest]
  rcases hfrom with hinit | ⟨k, hk, hlabel, hnear⟩
  · rw [hinit] at hbest
    dsimp only at hbest
    omega
  · have htri := popcount18_triangle (versionWords.getD k 0) (versionWords.getD j 0) r
    have happart : popcount18 (versionWords.getD k 0 ^^^ versionWords.getD j 0) ≤ 6 := by
      unfold versionDistance at hnear h
      omega
    rw [hlabel, versionWords_apart k j hk hj happart]

/-- Settles O49: two codes within 3 bits of one reading are within 6 of each other, and so the same. -/
theorem codesCorrectThreeBits : Obligations.CodesCorrectThreeBits := by
  refine ⟨fun k f1 f2 hk _ _ h1 h2 => matchFormat_of_close hk ?_ ?_, fun cfg v r hcfg hlo hhi _ h => ?_⟩
  · rwa [formatDistance, Nat.xor_assoc, Nat.xor_comm 0x5412]
  · rwa [formatDistance, Nat.xor_assoc, Nat.xor_comm 0x5412]
  · rw [matchVersion_of_close (j := v - 7) hcfg (by omega) h, Nat.sub_add_cancel hlo]

/-! ## The version of record (R341, R342) -/

theorem versionFits_eq {cfg : Config} {dim r v : Nat} (h : versionFits cfg dim r = some v) : 17 + 4 * v = dim := by
  unfold versionFits at h
  split at h
  · split at h <;> cases h
    assumption
  · cases h

theorem readVersion_eq {cfg : Config} {mod : Nat → Nat → Bool} {dim v : Nat} (hlo : 21 ≤ dim) (hmod : dim % 4 = 1)
    (h : readVersion cfg mod dim = .ok v) : 17 + 4 * v = dim := by
  unfold readVersion at h
  dsimp only at h
  split at h
  · cases h; omega
  split at h
  · rename_i hfit
    cases h
    exact versionFits_eq hfit
  split at h <;> cases h
  rename_i hfit
  exact versionFits_eq hfit

/-- Settles O50: each way to a version compares it with the dimension. -/
theorem parsedVersionFitsDimension : Obligations.ParsedVersionFitsDimension := by
  intro cfg mod dim p hlo _ hmod h
  unfold parseSymbol at h
  split at h
  · cases h
  split at h <;> cases h
  rename_i hv
  exact readVersion_eq hlo hmod hv

end Sys2Proof.Proofs
end

section
/-!
PROOFS about the stage steps (`20_memory.md` R89, `47_sequencer_commands.md` R472): each takes its stage's function on what the
memories hold, stores its output and goes on, or raises.
-/

namespace Sys2Proof.Proofs

open Sys2Proof Sys2Proof.Machine Sys2Proof.Laws

/-! ## The block decoder (R390, R396) -/

theorem length_forney {omega locs : List Byte} {as : List Nat} {out r : List Byte} (h : forney omega locs as out = some r) :
    r.length = out.length := by
  induction as generalizing out with
  | nil => cases h; rfl
  | cons a as ih =>
    simp only [forney] at h
    split at h
    · cases h
    · rw [ih h, List.length_set]

theorem length_correctErrors {block out s : List Byte} {ec : Nat} (h : correctErrors block ec s = some out) :
    out.length = block.length := by
  unfold correctErrors at h
  split at h
  · cases h
  split at h
  · cases h
  · exact length_forney h

theorem isCodeVector_iff (c : List Byte) (ec : Nat) : isCodeVector c ec = true ↔ ∀ i, i < ec → peval c (gfpow i) = 0 := by
  simp [isCodeVector]

theorem byteDist_self (a : List Byte) : byteDist a a = 0 := by
  simp [byteDist]

theorem rsDecode_of_isCodeVector {block : List Byte} {ec : Nat} (h : isCodeVector block ec = true) :
    rsDecode block ec = some (block, 0) := by
  rw [rsDecode, if_pos h]

/-- What the decoder returns has passed the final check. -/
theorem rsDecode_sound {block out : List Byte} {ec n : Nat} (h : rsDecode block ec = some (out, n)) :
    out.length = block.length ∧ isCodeVector out ec = true ∧ n = byteDist out block ∧ n ≤ ec / 2 := by
  unfold rsDecode at h
  split at h
  · rename_i hcode
    cases h
    exact ⟨rfl, hcode, (byteDist_self _).symm, Nat.zero_le _⟩
  split at h
  · cases h
  rename_i out' hcorrect
  dsimp only at h
  split at h <;> cases h
  rename_i hcheck
  rw [Bool.and_eq_true, decide_eq_true_eq] at hcheck
  exact ⟨length_correctErrors hcorrect, hcheck.1, rfl, hcheck.2⟩

/-- Settles O57: the last check of the procedure is the claim. -/
theorem blockDecoderSound : Obligations.BlockDecoderSound := by
  refine fun block out ec n => ⟨fun h => ?_, fun h => rsDecode_of_isCodeVector ((isCodeVector_iff ..).mpr h)⟩
  obtain ⟨hlen, hcode, hn, hle⟩ := rsDecode_sound h
  exact ⟨hlen, (isCodeVector_iff ..).mp hcode, hn, hle⟩

/-! ## What a stored list leaves in memory -/

/-- A list stored from the start of a region with room for it stands there. -/
theorem memRead_stored {cfg : Config} {m : List Host.Cell} {r : Region} {bs : List Byte} (hwf : memWf m = true)
    (hroom : bs.length ≤ regionCapacity cfg r) {k : Nat} (hk : k < bs.length) :
    memRead (storeBytes cfg m r 0 bs) (regionBase cfg r + k) = bs.getD k 0 := by
  rw [memRead_storeBytes _ _ _ _ _ _ hwf, if_pos (by omega), Nat.add_zero, Nat.add_sub_cancel_left]

theorem memRead_storeBytes_of_outside {cfg : Config} {m : List Host.Cell} {r : Region} {bs : List Byte} {a len : Nat}
    (hwf : memWf m = true) (hlen : bs.length = len)
    (ha : (decide (regionBase cfg r ≤ a) && decide (a < regionBase cfg r + len)) = false) :
    memRead (storeBytes cfg m r 0 bs) a = memRead m a := by
  rw [Bool.and_eq_false_iff, decide_eq_false_iff_not, decide_eq_false_iff_not] at ha
  rw [memRead_storeBytes _ _ _ _ _ _ hwf, if_neg (by omega)]

/-! ## The turn of a stage -/

theorem step_of_turn {s u t : State} (hturn : EngineTurn s u) (h : engineStep u = .next t) : step s = .next t :=
  (step_of_engineTurn s u hturn).trans h

section

variable {u : State} (hbusy : u.st = .busy)
include hbusy

theorem engineStep_bin (h : u.stage = .bin) : engineStep u = .next (stageBin u) := by rw [engineStep, if_pos hbusy, h]

theorem engineStep_det (h : u.stage = .det) : engineStep u = .next (stageDet u) := by rw [engineStep, if_pos hbusy, h]

theorem engineStep_parse (h : u.stage = .parse) : engineStep u = .next (stageParse u) := by rw [engineStep, if_pos hbusy, h]

theorem engineStep_readcw (h : u.stage = .readcw) : engineStep u = .next (stageReadcw u) := by rw [engineStep, if_pos hbusy, h]

theorem engineStep_ec (h : u.stage = .ec) : engineStep u = .next (stageEc u) := by rw [engineStep, if_pos hbusy, h]

theorem engineStep_bits (h : u.stage = .bits) : engineStep u = .next (enterBits u) := by rw [engineStep, if_pos hbusy, h]

end

/-! ## RSDECODE -/

/-- Settles O60: a block that decodes keeps its length and is stored in place; a failure ends the command, for it has
no mirror pass. -/
theorem rsdecodeCorrectsInPlace : Obligations.RsdecodeCorrectsInPlace := by
  intro s u hturn hbusy hstage hcmd hwf hpass harg
  have hec : engineStep u = .next (stageEcBlock u) := by
    rw [engineStep_ec hbusy hstage, stageEc, if_pos hcmd]
  refine ⟨fun out n hdec => ?_, fun hdec => ?_⟩
  · have hlen : out.length = u.arg0.toNat := by
      rw [(rsDecode_sound hdec).1, length_memLoad]
    have hout : stageEcBlock u = stageDone { u with
        mem := storeBytes u.cfg u.mem .cw 0 out, ec := { u.ec with nerr := n } } .ec := by
      unfold stageEcBlock
      rw [show rsDecode (rsInput u) u.arg1.toNat = some (out, n) from hdec]
    refine ⟨_, step_of_turn hturn (hec.trans (congrArg _ hout)), by simp only [stageDone, hcmd, nextStage], ?_, ?_⟩
    · exact fun k hk => memRead_stored (r := .cw) hwf (show out.length ≤ 3706 by omega) hk
    · exact fun a ha => memRead_storeBytes_of_outside (r := .cw) hwf hlen ha
  · have hout : stageEcBlock u = endWithExc u .ceUncorrectable := by
      unfold stageEcBlock
      rw [show rsDecode (rsInput u) u.arg1.toNat = none from hdec]
      simp [raise, takesMirror, hcmd]
    refine ⟨_, step_of_turn hturn (hec.trans (congrArg _ hout)), ?_, ?_⟩
    · have hends := endWithExc_endsWith u .ceUncorrectable
      rwa [hpass, if_neg Bool.false_ne_true, hcmd] at hends
    · rw [endWithExc_mem, hcmd]
      rfl

/-! ## The stages of a symbol -/

/-- No version has more codewords than `CW` holds. -/
theorem versionInfo_total_le (v : Nat) : (versionInfo v).total ≤ 3706 := by
  have htable : ∀ i ∈ versionTable, i.total ≤ 3706 := by decide
  unfold versionInfo
  split
  · exact Nat.zero_le _
  · by_cases hv : v - 1 < versionTable.length
    · rw [List.getD_eq_getElem _ _ hv]
      exact htable _ (List.getElem_mem hv)
    · rw [List.getD_eq_default _ _ (Nat.not_lt.mp hv)]
      exact Nat.zero_le _

theorem length_readCodewords {mod : Nat → Nat → Bool} {dim ver mask : Nat} {cw : List Byte}
    (h : readCodewords mod dim ver mask = .ok cw) : cw.length = (versionInfo ver).total := by
  simp only [readCodewords] at h
  split at h <;> cases h
  rename_i hlen
  exact not_not.mp hlen

theorem nextStage_decoder {c : Command} (hc : c = .decode ∨ c = .decodesym) :
    nextStage c .parse = .readcw ∧ nextStage c .readcw = .ec ∧ nextStage c .ec = .bits := by
  rcases hc with rfl | rfl <;> exact ⟨rfl, rfl, rfl⟩

theorem extract_eq_ofNat (w : Word) : w.extractLsb' 0 12 = BitVec.ofNat 12 w.toNat := by
  apply BitVec.eq_of_toNat_eq
  simp [BitVec.extractLsb'_toNat]

/-- Settles O55: the machine's accessors are the statement's, and each step is its stage's function on them. -/
theorem symbolStagesStore : Obligations.SymbolStagesStore := by
  intro s u hturn hbusy
  have hmod : moduleAt u = symbolSeen u := funext fun x => funext fun y => moduleAt_eq u x y
  refine ⟨fun hstage hcmd => ⟨fun p hp => ?_, fun e he => ?_⟩,
    fun hstage hcmd hwf => ⟨fun cw hcw => ?_, fun e he => ?_⟩, fun hstage => ⟨fun hcmd => ?_, fun hcmd => ?_⟩⟩
  · have hout : stageParse u = stageDone { u with
        sym := { u.sym with ecbits := p.ecbits, mask := p.mask, ver := p.ver } } .parse := by
      unfold stageParse
      rw [hmod, symDim_eq, hp]
    rw [step_of_turn hturn (engineStep_parse hbusy hstage), hout, stageDone, (nextStage_decoder hcmd).1]
  · refine ⟨_, step_of_turn hturn (engineStep_parse hbusy hstage), ?_⟩
    unfold stageParse
    rw [hmod, symDim_eq, he]
    exact raise_raisesExc u e
  · have hlen : cw.length ≤ 3706 := (length_readCodewords hcw).trans_le (versionInfo_total_le _)
    have hout : stageReadcw u = stageDone { u with
        mem := storeBytes u.cfg u.mem .cw 0 cw, sym := { u.sym with ncw := cw.length } } .readcw := by
      unfold stageReadcw
      rw [hmod, symDim_eq, hcw]
    refine ⟨_, step_of_turn hturn ((engineStep_readcw hbusy hstage).trans (congrArg _ hout)), ?_, ?_, ?_⟩
    · simp only [stageDone, (nextStage_decoder hcmd).2.1]
    · exact fun k hk => memRead_stored (r := .cw) hwf hlen hk
    · exact fun a ha => memRead_storeBytes_of_outside (r := .cw) hwf rfl ha
  · refine ⟨_, step_of_turn hturn (engineStep_readcw hbusy hstage), ?_⟩
    unfold stageReadcw
    rw [hmod, symDim_eq, he]
    exact raise_raisesExc u e
  · have hver : (u.arg1.extractLsb' 0 8).toNat = u.arg1.toNat % 256 := by simp [BitVec.extractLsb'_toNat]
    rw [step_of_turn hturn (engineStep_bits hbusy hstage), enterBits, streamVersion, dataLength, if_pos hcmd, if_pos hcmd, hver,
      extract_eq_ofNat]
  · have hne : u.cmd ≠ .parsebits := by rcases hcmd with h | h <;> simp [h]
    rw [step_of_turn hturn (engineStep_bits hbusy hstage), enterBits, streamVersion, dataLength, if_neg hne, if_neg hne]

/-! ## Error correction of a symbol (R400) -/

theorem decodeBlocks_eq_some {ec : Nat} {blocks : List (List Byte)} {out : Nat → List Byte} {err : Nat → Nat}
    (h : ∀ b, (hb : b < blocks.length) → rsDecode blocks[b] ec = some (out b, err b)) :
    decodeBlocks ec blocks =
      some ((List.range blocks.length).map out, ((List.range blocks.length).map err).sum) := by
  induction blocks generalizing out err with
  | nil => rfl
  | cons blk blocks ih =>
    have hhead := h 0 (Nat.zero_lt_succ _)
    have htail := ih (out := fun b => out (b + 1)) (err := fun b => err (b + 1)) fun b hb => h (b + 1) (Nat.succ_lt_succ hb)
    rw [List.getElem_cons_zero] at hhead
    simp only [decodeBlocks, hhead, htail, List.length_cons, List.range_succ_eq_map, List.map_cons, List.map_map,
      List.sum_cons, Option.map_some]
    rfl

theorem decodeBlocks_eq_none {ec : Nat} {blocks : List (List Byte)} {blk : List Byte} (hmem : blk ∈ blocks)
    (h : rsDecode blk ec = none) : decodeBlocks ec blocks = none := by
  induction blocks with
  | nil => cases hmem
  | cons b blocks ih =>
    rw [decodeBlocks]
    rcases List.mem_cons.mp hmem with rfl | hmem
    · rw [h]
    · cases rsDecode b ec with
      | none => rfl
      | some r => simp [ih hmem]

theorem assembleData_map (nds : List Nat) (out : Nat → List Byte) :
    assembleData nds ((List.range nds.length).map out) =
      (List.range nds.length).flatMap fun b => (out b).take (nds.getD b 0) := by
  unfold assembleData
  induction nds generalizing out with
  | nil => rfl
  | cons n nds ih =>
    have hrest := ih fun b => out (b + 1)
    simp only [List.length_cons, List.range_succ_eq_map, List.map_cons, List.map_map, List.zipWith_cons_cons,
      List.flatten_cons, List.flatMap_cons, List.flatMap_map, List.getD_cons_zero, List.getD_cons_succ]
    exact congrArg _ hrest

theorem length_assembled {nds : List Nat} {out : Nat → List Byte}
    (h : ∀ b, b < nds.length → nds.getD b 0 ≤ (out b).length) :
    ((List.range nds.length).flatMap fun b => (out b).take (nds.getD b 0)).length = nds.sum := by
  induction nds generalizing out with
  | nil => rfl
  | cons n nds ih =>
    have hhead : n ≤ (out 0).length := h 0 (Nat.zero_lt_succ _)
    have htail := ih (out := fun b => out (b + 1)) fun b hb => h (b + 1) (Nat.succ_lt_succ hb)
    rw [List.length_cons, List.range_succ_eq_map, List.flatMap_cons, List.flatMap_map, List.length_append, List.sum_cons,
      ← htail, List.getD_cons_zero, List.length_take, min_eq_left hhead]
    rfl

/-- Settles O59: the blocks dealt are the ones received, and their data parts together are as long as the lengths say.
-/
theorem symbolBlocksCorrected : Obligations.SymbolBlocksCorrected := by
  intro s u hturn hbusy hstage hcmd hwf hlo hhi nds ec received hnds hec hreceived
  have hne : u.cmd ≠ .rsdecode := by rcases hcmd with h | h <;> simp [h]
  have hstep : engineStep u = .next (stageEcSymbol u) := by
    rw [engineStep_ec hbusy hstage, stageEc, if_neg hne]
  have hblocks : deinterleave (regionByte u.cfg u.mem .cw) nds ec = (List.range nds.length).map received :=
    List.map_congr_left fun b _ => (hreceived b).symm
  have hlenBlocks : (deinterleave (regionByte u.cfg u.mem .cw) nds ec).length = nds.length := by rw [hblocks]; simp
  refine ⟨fun out err hdec => ?_, fun ⟨b, hb, hdec⟩ => ?_⟩
  · have hdecoded := decodeBlocks_eq_some (ec := ec) (blocks := deinterleave (regionByte u.cfg u.mem .cw) nds ec)
      (out := out) (err := err) fun b hb => by
        simp only [hblocks, List.getElem_map, List.getElem_range]
        exact hdec b (hlenBlocks ▸ hb)
    have hlen : ((List.range nds.length).flatMap fun b => (out b).take (nds.getD b 0)).length = nds.sum :=
      length_assembled fun b hb => by
        rw [(rsDecode_sound (hdec b hb)).1, hreceived, List.length_map, List.length_range]
        omega
    have hsum : nds.sum ≤ 2956 := hnds ▸ blockLengths_sum_le u.sym.ver u.sym.ecbits
    have hcorrect : correctSymbol (regionByte u.cfg u.mem .cw) u.sym.ver u.sym.ecbits =
        .ok { data := (List.range nds.length).flatMap fun b => (out b).take (nds.getD b 0)
              nerr := ((List.range nds.length).map err).sum } := by
      simp only [correctSymbol, ← hnds, ← hec, hdecoded, hlenBlocks, assembleData_map]
    have hout : stageEcSymbol u = stageDone { u with
        mem := storeBytes u.cfg u.mem .data 0 ((List.range nds.length).flatMap fun b => (out b).take (nds.getD b 0))
        ec := { nerr := ((List.range nds.length).map err).sum, ndata := BitVec.ofNat 12 nds.sum } } .ec := by
      unfold stageEcSymbol
      rw [hcorrect]
      dsimp only
      rw [hlen]
    refine ⟨_, step_of_turn hturn (hstep.trans (congrArg _ hout)), ?_, ?_, ?_⟩
    · simp only [stageDone, (nextStage_decoder hcmd).2.2]
    · exact fun k hk => memRead_stored (r := .data) hwf (show _ ≤ 2956 by rw [hlen]; exact hsum) hk
    · exact fun a ha => memRead_storeBytes_of_outside (r := .data) hwf hlen ha
  · have hcorrect : correctSymbol (regionByte u.cfg u.mem .cw) u.sym.ver u.sym.ecbits = .error .ceUncorrectable := by
      simp only [correctSymbol, ← hnds, ← hec, hblocks,
        decodeBlocks_eq_none (List.mem_map_of_mem (List.mem_range.mpr hb)) hdec]
    refine ⟨_, step_of_turn hturn hstep, ?_⟩
    unfold stageEcSymbol
    rw [hcorrect]
    exact raise_raisesExc u _

/-! ## The stages of an image -/

theorem binarize_rows {cfg : Config} {lum : Nat → Nat → Nat} {w h : Nat} {r : BinResult} (hr : binarize cfg lum w h = .ok r) :
    r.rows.length = h := by
  unfold binarize at hr
  split at hr
  · cases hr
  split at hr
  · cases hr
    exact length_matrixRows ..
  split at hr <;> cases hr
  exact length_matrixRows ..

theorem locate_rows {cfg : Config} {blk : Nat → Nat → Bool} {w h : Nat} {cs : List Candidate} {o : Ordered} {r : DetOut}
    (hr : (locate cfg blk w h cs o).result = .ok r) : r.det.dim ≤ 177 ∧ r.rows.length = r.det.dim := by
  unfold locate at hr
  split at hr
  · cases hr
  split at hr
  · cases hr
  rename_i dim hdim
  dsimp only at hr
  split at hr
  · cases hr
  split at hr <;> cases hr
  rename_i hgrid
  exact ⟨(dimension_legal hdim).2.1, (sampleGrid_square hgrid).1⟩

theorem detect_rows {cfg : Config} {blk : Nat → Nat → Bool} {w h : Nat} {th : Bool} {r : DetOut}
    (hr : (detect cfg blk w h th).result = .ok r) : r.det.dim ≤ 177 ∧ r.rows.length = r.det.dim := by
  unfold detect at hr
  dsimp only at hr
  split at hr
  · cases hr
  · exact locate_rows hr

/-- A frame in range has room in `IMGBITS` (R86). -/
theorem frame_room {cfg : Config} {w h : Nat} (hw : w ≤ cfg.maxW) (hh : h ≤ cfg.maxH) :
    4 * (rowWords w * h) ≤ regionCapacity cfg .imgbits := by
  show 4 * (rowWords w * h) ≤ 4 * ((cfg.maxW + 31) / 32) * cfg.maxH
  rw [Nat.mul_assoc]
  exact Nat.mul_le_mul_left 4 (Nat.mul_le_mul (Nat.div_le_div_right (by omega)) hh)

/-- A symbol has room in `SYMBITS` (R86). -/
theorem symbol_room {cfg : Config} {dim : Nat} (h : dim ≤ 177) : 4 * (rowWords dim * dim) ≤ regionCapacity cfg .symbits := by
  show 4 * (rowWords dim * dim) ≤ 4248
  have hwords : rowWords dim ≤ 6 := by rw [rowWords]; omega
  have := Nat.mul_le_mul hwords h
  omega

/-- Storing to a region of a legal build changes nothing outside its window. -/
theorem memRead_storeBytes_of_window {cfg : Config} {m : List Host.Cell} {r : Region} {bs : List Byte} {a : Nat}
    (hlegal : cfg.legal = true) (ha : inWindow cfg r a = false) : memRead (storeBytes cfg m r 0 bs) a = memRead m a := by
  refine memRead_storeBytes_out _ _ _ _ _ _ ((inCapacity_eq_false_iff ..).mpr fun hin => ?_)
  have hwin := (inWindow_iff cfg r a).mpr
    ⟨hin.1, hin.2.trans_le (Nat.add_le_add_left (regionCapacity_le_window hlegal r) _)⟩
  exact Bool.false_ne_true (ha.symm.trans hwin)

theorem lt_rowBits {x w : Nat} (h : x < w) : x < 32 * rowWords w := by rw [rowWords]; omega

/-- Settles O47: each stage's function gives a matrix of the size that has room, which reads back as stored. -/
theorem imageStagesStore : Obligations.ImageStagesStore := by
  intro s u hturn hbusy hlegal hframe hwf
  obtain ⟨-, hw, -, hh⟩ := hframe
  refine ⟨fun hstage hcmd b hb => ?_, fun hstage hcmd d hd => ?_⟩
  · have hb' : binarize u.cfg (lumaAt u.cfg u.mem u.imgWidth.toNat) u.imgWidth.toNat u.imgHeight.toNat = b := by
      rw [hb]
      congr 1
      funext x y
      simp only [lumaAt, regionByte, regionBase, Nat.add_assoc]
    refine ⟨fun r hr => ?_, fun e he => ?_⟩
    · rw [hr] at hb'
      have hrows := binarize_rows hb'
      have hout : stageBin u = stageDone { u with
          mem := storeBytes u.cfg u.mem .imgbits 0 (packMatrix r.rows u.imgWidth.toNat), binPath := r.path } .bin := by
        unfold stageBin
        dsimp only
        rw [hb']
      refine ⟨_, step_of_turn hturn ((engineStep_bin hbusy hstage).trans (congrArg _ hout)), ?_, fun x y hx hy => ?_,
        fun a ha => memRead_storeBytes_of_window hlegal ha⟩
      · rcases hcmd with hcmd | hcmd <;> simp [stageDone, nextStage, hcmd]
      · rw [← imgAt_eq]
        exact matrixBit_storeBytes hwf (hrows ▸ frame_room hw hh) (hrows ▸ hy) (lt_rowBits hx)
    · refine ⟨_, step_of_turn hturn (engineStep_bin hbusy hstage), ?_⟩
      unfold stageBin
      dsimp only
      rw [hb', he]
      exact raise_raisesExc u e
  · have himg : imgAt u = imageSeen u := funext fun x => funext fun y => imgAt_eq u x y
    have hd' : detect u.cfg (imgAt u) u.imgWidth.toNat u.imgHeight.toNat (hintTryHarder u.hints) = d := by
      rw [himg, hd]
      rfl
    refine ⟨fun r hr => ?_, fun e he => ?_⟩
    · have hout : stageDet u = stageDone { u with
          candOvf := u.candOvf || d.ovf, mem := storeBytes u.cfg u.mem .symbits 0 (packMatrix r.rows r.det.dim)
          det := r.det } .det := by
        unfold stageDet
        dsimp only
        rw [hd', hr]
      obtain ⟨hdim, hrows⟩ := detect_rows (by rw [hd']; exact hr)
      have hsym : u.cmd ≠ .decodesym := by rcases hcmd with h | h <;> simp [h]
      refine ⟨_, step_of_turn hturn ((engineStep_det hbusy hstage).trans (congrArg _ hout)), ?_, fun x y hx hy => ?_,
        fun a ha => memRead_storeBytes_of_window hlegal ha⟩
      · rcases hcmd with hcmd | hcmd <;> simp [stageDone, nextStage, hcmd]
      · rw [← moduleAt_eq]
        have hbit := matrixBit_storeBytes (cfg := u.cfg) (r := .symbits) (x := x) (y := y) hwf
          (by rw [hrows]; exact symbol_room hdim) (hrows ▸ hy) (lt_rowBits hx)
        simpa [moduleAt, symDim, stageDone, hsym] using hbit
    · refine ⟨_, step_of_turn hturn (engineStep_det hbusy hstage), ?_⟩
      unfold stageDet
      dsimp only
      rw [hd', he]
      exact raise_raisesExc _ e

end Sys2Proof.Proofs
end

section
/-!
PROOFS about the matrix parser (`44_matrix_parser.md` R346 to R356): the function modules and masks, the codeword walk, and
the dealing of the codewords to the blocks.
-/

namespace Sys2Proof.Proofs

open Sys2Proof Sys2Proof.Machine Sys2Proof.Laws

/-! ## Function modules and masks (R346, R347) -/

theorem inRegion_iff (left top w h x y : Nat) :
    inRegion left top w h x y = true ↔ left ≤ x ∧ x < left + w ∧ top ≤ y ∧ y < top + h := by
  simp [inRegion, and_assoc]

/-- What the alignment centres of a version satisfy (R343): the first is 6, the last `DIM - 7`, and no other is either. -/
def CentresOk (ver : Nat) : Prop :=
  ∀ a, a < (versionInfo ver).align.length →
    6 ≤ (versionInfo ver).align.getD a 0 ∧ ((versionInfo ver).align.getD a 0 = 6 ↔ a = 0) ∧
      ((versionInfo ver).align.getD a 0 = 10 + 4 * ver ↔ a = (versionInfo ver).align.length - 1)

theorem centresOk_rows : ∀ v < 40, CentresOk (v + 1) := by unfold CentresOk; decide +kernel

theorem centresOk {ver : Nat} (hlo : 1 ≤ ver) (hhi : ver ≤ 40) : CentresOk ver := by
  have h := centresOk_rows (ver - 1) (by omega)
  rwa [Nat.sub_add_cancel hlo] at h

theorem any_iff_getD {l : List Nat} {p : Nat → Bool} : l.any p = true ↔ ∃ a, a < l.length ∧ p (l.getD a 0) = true := by
  rw [List.any_eq_true]
  constructor
  · rintro ⟨c, hc, hp⟩
    obtain ⟨a, ha, rfl⟩ := List.getElem_of_mem hc
    exact ⟨a, ha, by rwa [List.getD_eq_getElem _ _ ha]⟩
  · rintro ⟨a, ha, hp⟩
    rw [List.getD_eq_getElem _ _ ha] at hp
    exact ⟨_, List.getElem_mem ha, hp⟩

theorem overlapsFinder_iff (d cx cy : Nat) :
    overlapsFinder d cx cy = true ↔ cy = 6 ∧ cx = 6 ∨ cy = 6 ∧ cx = d - 7 ∨ cy = d - 7 ∧ cx = 6 := by
  simp [overlapsFinder, or_assoc]

/-- The alignment patterns, by the indices of their centres. -/
theorem alignment_iff {ver x y : Nat} (h : CentresOk ver) :
    ((versionInfo ver).align.any fun cy => (versionInfo ver).align.any fun cx =>
        !overlapsFinder (17 + 4 * ver) cx cy && inRegion (cx - 2) (cy - 2) 5 5 x y) = true ↔
      ∃ a b, a < (versionInfo ver).align.length ∧ b < (versionInfo ver).align.length ∧ ¬ (a = 0 ∧ b = 0) ∧
        ¬ (a = 0 ∧ b = (versionInfo ver).align.length - 1) ∧ ¬ (a = (versionInfo ver).align.length - 1 ∧ b = 0) ∧
        (versionInfo ver).align.getD b 0 - 2 ≤ x ∧ x ≤ (versionInfo ver).align.getD b 0 + 2 ∧
        (versionInfo ver).align.getD a 0 - 2 ≤ y ∧ y ≤ (versionInfo ver).align.getD a 0 + 2 := by
  simp only [any_iff_getD, Bool.and_eq_true, Bool.not_eq_true', ← Bool.not_eq_true, overlapsFinder_iff, inRegion_iff,
    ← exists_and_left]
  refine exists_congr fun a => exists_congr fun b => and_congr_right fun ha => and_congr_right fun hb => ?_
  obtain ⟨ha6, hafirst, halast⟩ := h a ha
  obtain ⟨hb6, hbfirst, hblast⟩ := h b hb
  rw [show 17 + 4 * ver - 7 = 10 + 4 * ver by omega, hafirst, halast, hbfirst, hblast]
  omega

theorem maskBit_iff (i j : Nat) :
    (maskBit 0 i j = true ↔ (i + j) % 2 = 0) ∧ (maskBit 1 i j = true ↔ i % 2 = 0) ∧
    (maskBit 2 i j = true ↔ j % 3 = 0) ∧ (maskBit 3 i j = true ↔ (i + j) % 3 = 0) ∧
    (maskBit 4 i j = true ↔ (i / 2 + j / 3) % 2 = 0) ∧ (maskBit 5 i j = true ↔ i * j % 2 + i * j % 3 = 0) ∧
    (maskBit 6 i j = true ↔ (i * j % 2 + i * j % 3) % 2 = 0) ∧
    (maskBit 7 i j = true ↔ ((i + j) % 2 + i * j % 3) % 2 = 0) :=
  ⟨decide_eq_true_iff, decide_eq_true_iff, decide_eq_true_iff, decide_eq_true_iff, decide_eq_true_iff,
    decide_eq_true_iff, decide_eq_true_iff, decide_eq_true_iff⟩

/-- Settles O52: region by region; the three overlapping patterns are found by index, since no other centre is 6 or
`DIM - 7`. -/
theorem functionModulesAndMasks : Obligations.FunctionModulesAndMasks := by
  refine ⟨fun ver x y hlo hhi hx hy => ?_, maskBit_iff⟩
  simp only [isFunction, Bool.or_eq_true, Bool.and_eq_true, decide_eq_true_eq, inRegion_iff,
    alignment_iff (centresOk hlo hhi)]
  generalize (∃ a b, _) = aligned
  by_cases haligned : aligned
  · simp only [haligned, or_true, true_or]
  · simp only [haligned, or_false, false_or]
    omega

/-! ## Dealing the codewords (R356) -/

/-- Rows of consecutive numbers, one after the other. -/
theorem flatMap_rows (off n s : Nat) :
    ((List.range s).flatMap fun k => (List.range n).map fun b => off + (k * n + b)) = List.range' off (s * n) := by
  induction s with
  | zero => simp
  | succ s ih =>
    have hrow : ((List.range n).map fun b => off + (s * n + b)) = List.range' (off + s * n) n := by
      rw [List.range'_eq_map_range]
      simp only [Nat.add_assoc]
    rw [List.range_succ, List.flatMap_append, ih, List.flatMap_singleton, hrow, List.range'_append_1, Nat.succ_mul]

/-- The extra data codewords are counted up block by block. -/
theorem map_extra (l : List Nat) (s t : Nat) :
    (((List.range l.length).filter fun b => s < l.getD b 0).map fun b => t + (l.take b).countP fun n => n > s) =
      List.range' t (l.countP fun n => n > s) := by
  induction l generalizing t with
  | nil => rfl
  | cons n l ih =>
    have hrest := ih (t + if s < n then 1 else 0)
    rw [List.length_cons, List.range_succ_eq_map, List.filter_cons, List.filter_map]
    by_cases hn : s < n
    · simp only [List.getD_cons_zero, hn, decide_true, if_true, List.map_cons, List.take_zero, List.countP_nil, Nat.add_zero,
        List.countP_cons, gt_iff_lt, List.range'_succ] at hrest ⊢
      rw [← hrest, List.map_map]
      congr 1
      refine List.map_congr_left fun b _ => ?_
      simp [hn]
      omega
    · simp only [List.getD_cons_zero, hn, decide_false, Bool.false_eq_true, if_false, Nat.add_zero, List.countP_cons,
        gt_iff_lt] at hrest ⊢
      rw [← hrest, List.map_map]
      refine List.map_congr_left fun b _ => ?_
      simp [hn]

theorem sum_eq_short_add_extra {nds : List Nat} {short : Nat} (h : ∀ n ∈ nds, n = short ∨ n = short + 1) :
    nds.sum = short * nds.length + nds.countP fun n => n > short := by
  induction nds with
  | nil => rfl
  | cons n nds ih =>
    have hrest := ih fun m hm => h m (List.mem_cons_of_mem _ hm)
    rw [List.sum_cons, hrest, List.length_cons, List.countP_cons, Nat.mul_succ]
    rcases h n List.mem_cons_self with rfl | rfl <;> simp <;> omega

/-- Settles O54: the three parts are three consecutive ranges. -/
theorem codewordsDealt : Obligations.CodewordsDealt := by
  intro nds ec h
  have hsum := sum_eq_short_add_extra h
  have hlength : ∀ b, b < nds.length → nds.headD 0 ≤ nds.getD b 0 := fun b hb => by
    rw [List.getD_eq_getElem _ _ hb]
    rcases h _ (List.getElem_mem hb) with hn | hn <;> omega
  have hshort : ((List.range (nds.headD 0)).flatMap fun k => (List.range nds.length).map fun b => codewordPlace nds b k) =
      List.range' 0 (nds.headD 0 * nds.length) := by
    rw [← flatMap_rows]
    refine List.flatMap_congr fun k hk => List.map_congr_left fun b _ => ?_
    rw [codewordPlace]
    rw [if_pos (List.mem_range.mp hk), Nat.zero_add]
  have hextra : (((List.range nds.length).filter fun b => nds.headD 0 < nds.getD b 0).map fun b =>
      codewordPlace nds b (nds.headD 0)) =
      List.range' (0 + nds.headD 0 * nds.length) (nds.countP fun n => n > nds.headD 0) := by
    rw [← map_extra, Nat.zero_add]
    refine List.map_congr_left fun b hb => ?_
    rw [codewordPlace]
    rw [if_neg (Nat.lt_irrefl _), if_pos (by simpa using (List.mem_filter.mp hb).2)]
  have hec : ((List.range ec).flatMap fun k => (List.range nds.length).map fun b =>
      codewordPlace nds b (nds.getD b 0 + k)) = List.range' (0 + nds.sum) (ec * nds.length) := by
    rw [← flatMap_rows, Nat.zero_add]
    refine List.flatMap_congr fun k _ => List.map_congr_left fun b hb => ?_
    have hle := hlength b (List.mem_range.mp hb)
    rw [codewordPlace]
    rw [if_neg (by omega), if_neg (by omega), Nat.add_sub_cancel_left, Nat.add_assoc]
  rw [hshort, hextra, hec, List.range'_append_1, ← hsum, List.range'_append_1, List.range_eq_range']

end Sys2Proof.Proofs
end

section
/-!
PROOFS about stage READCW (`44_matrix_parser.md` R352, R353): the walk visits each module outside column 6 once, in the order
of `walkKey`, and the codewords are its data bits, eight to a byte.
-/

namespace Sys2Proof.Proofs

open Sys2Proof Sys2Proof.Machine Sys2Proof.Laws

/-! ## The order of the walk -/

theorem mem_pairPlaces {dim j : Nat} {up : Bool} {p : Nat × Nat} :
    p ∈ pairPlaces dim j up ↔ (p.1 = j ∨ p.1 = j - 1) ∧ p.2 < dim := by
  obtain ⟨x, y⟩ := p
  simp only [pairPlaces, List.mem_flatMap, List.mem_range, List.mem_cons, List.not_mem_nil, or_false, Prod.mk.injEq]
  constructor
  · rintro ⟨cnt, hcnt, hx | hx⟩ <;> cases up <;> simp at hx <;> omega
  · rintro ⟨hx, hy⟩
    cases up with
    | true => exact ⟨dim - 1 - y, by omega, by rw [if_pos rfl]; omega⟩
    | false => exact ⟨y, hy, by simpa using hx⟩

/-- The walk is at its column pair `m` when it is to go on with column `j` (R352): beyond column 6 a pair begins at an even
column, before it at an odd one. -/
def AtPair (dim j m : Nat) : Prop :=
  6 < j ∧ j % 2 = 0 ∧ j + 2 * m + 1 = dim ∨ j = 6 ∧ 2 * m + 7 = dim ∨ j < 6 ∧ j % 2 = 1 ∧ j + 2 * m + 2 = dim

/-- The first column of the pair. -/
def pairColumn (j : Nat) : Nat := if j = 6 then 5 else j

theorem walkPlaces_succ {dim n j : Nat} {up : Bool} (hj : j ≠ 0) :
    walkPlaces dim (n + 1) j up = pairPlaces dim (pairColumn j) up ++ walkPlaces dim n (pairColumn j - 2) (!up) := by
  rw [walkPlaces, if_neg hj]
  rfl

theorem walkPlaces_zero (dim n : Nat) (up : Bool) : walkPlaces dim n 0 up = [] := by
  cases n <;> rfl

theorem AtPair.ne_zero {dim j m : Nat} (h : AtPair dim j m) : j ≠ 0 := by
  unfold AtPair at h
  omega

/-- After a pair comes the next, or the walk is over. -/
theorem AtPair.next {dim j m : Nat} (h : AtPair dim j m) :
    pairColumn j - 2 = 0 ∧ pairColumn j = 1 ∨ AtPair dim (pairColumn j - 2) (m + 1) := by
  unfold AtPair at h ⊢
  unfold pairColumn
  split <;> omega

theorem mem_walkPlaces {dim n j m : Nat} {up : Bool} (h : AtPair dim j m) (hn : j ≤ n) {p : Nat × Nat} :
    p ∈ walkPlaces dim n j up ↔ p.1 ≤ j ∧ p.1 ≠ 6 ∧ p.2 < dim := by
  induction n generalizing j m up with
  | zero => exact absurd (Nat.le_zero.mp hn) h.ne_zero
  | succ n ih =>
    rw [walkPlaces_succ h.ne_zero, List.mem_append, mem_pairPlaces]
    rcases h.next with ⟨hzero, hone⟩ | hnext
    · have hj : j = 1 := by
        unfold pairColumn at hone
        split at hone <;> omega
      rw [hzero, walkPlaces_zero, hone, hj]
      simp only [List.not_mem_nil, or_false]
      omega
    · rw [ih hnext (by unfold pairColumn; split <;> omega)]
      unfold AtPair at h
      unfold pairColumn
      split <;> omega

/-- The keys of the two modules of a row of pair `m`, by the count of rows walked. -/
theorem walkKey_pair {dim j m cnt : Nat} (h : AtPair dim j m) (hcnt : cnt < dim) :
    walkKey dim (pairColumn j, if m % 2 = 0 then dim - 1 - cnt else cnt) = 2 * (m * dim + cnt) ∧
      walkKey dim (pairColumn j - 1, if m % 2 = 0 then dim - 1 - cnt else cnt) = 2 * (m * dim + cnt) + 1 := by
  have hright : (if 6 < pairColumn j then dim - 1 - pairColumn j else dim - 2 - pairColumn j) = 2 * m := by
    unfold AtPair at h
    unfold pairColumn
    split <;> split <;> omega
  have hleft : (if 6 < pairColumn j - 1 then dim - 1 - (pairColumn j - 1) else dim - 2 - (pairColumn j - 1)) = 2 * m + 1 := by
    unfold AtPair at h
    unfold pairColumn
    split <;> split <;> omega
  have hrow : (if m % 2 = 0 then dim - 1 - (if m % 2 = 0 then dim - 1 - cnt else cnt)
      else (if m % 2 = 0 then dim - 1 - cnt else cnt)) = cnt := by
    split <;> omega
  unfold walkKey
  dsimp only
  rw [hright, hleft, show 2 * m / 2 = m by omega, show (2 * m + 1) / 2 = m by omega, hrow]
  omega

theorem flatMap_pairs (a n : Nat) :
    ((List.range n).flatMap fun c => [2 * (a + c), 2 * (a + c) + 1]) = List.range' (2 * a) (2 * n) := by
  induction n with
  | zero => rfl
  | succ n ih =>
    have hpair : [2 * (a + n), 2 * (a + n) + 1] = List.range' (2 * a + 2 * n) 2 := by
      rw [← Nat.mul_add]
      rfl
    rw [List.range_succ, List.flatMap_append, ih, List.flatMap_singleton, hpair, List.range'_append_1]
    rfl

theorem length_pairPlaces (dim j : Nat) (up : Bool) : (pairPlaces dim j up).length = 2 * dim := by
  simp [pairPlaces, List.length_flatMap, Nat.mul_comm]

theorem map_walkKey_pairPlaces {dim j m : Nat} (h : AtPair dim j m) :
    (pairPlaces dim (pairColumn j) (decide (m % 2 = 0))).map (walkKey dim) = List.range' (2 * (m * dim)) (2 * dim) := by
  rw [← flatMap_pairs, pairPlaces, List.map_flatMap]
  refine List.flatMap_congr fun cnt hcnt => ?_
  obtain ⟨hright, hleft⟩ := walkKey_pair h (List.mem_range.mp hcnt)
  simp only [List.map_cons, List.map_nil, decide_eq_true_eq, hright, hleft]

/-- The keys along the walk are consecutive. -/
theorem map_walkKey_walkPlaces {dim n j m : Nat} {up : Bool} (h : AtPair dim j m) (hup : up = decide (m % 2 = 0)) :
    (walkPlaces dim n j up).map (walkKey dim) = List.range' (2 * (m * dim)) (walkPlaces dim n j up).length := by
  induction n generalizing j m up with
  | zero => rfl
  | succ n ih =>
    have hflip : (!up) = decide ((m + 1) % 2 = 0) := by
      rw [hup, ← decide_not, decide_eq_decide]
      omega
    have hrest : (walkPlaces dim n (pairColumn j - 2) (!up)).map (walkKey dim) =
        List.range' (2 * (m * dim) + 2 * dim) (walkPlaces dim n (pairColumn j - 2) (!up)).length := by
      rcases h.next with ⟨hzero, -⟩ | hnext
      · rw [hzero, walkPlaces_zero]
        rfl
      · rw [ih hnext hflip, Nat.add_mul, Nat.one_mul, Nat.mul_add]
    rw [walkPlaces_succ h.ne_zero, List.map_append, hrest, List.length_append, length_pairPlaces, hup,
      map_walkKey_pairPlaces h, List.range'_append_1]

/-! ## The codewords -/

/-- The data modules in walk order. -/
def dataWalk (dim ver : Nat) : List (Nat × Nat) :=
  (walkPlaces dim dim (dim - 1) true).filter fun p => !isFunction ver p.1 p.2

theorem atPair_first {dim : Nat} (hlo : 21 ≤ dim) (hmod : dim % 4 = 1) : AtPair dim (dim - 1) 0 := by
  unfold AtPair
  omega

theorem mem_dataWalk {dim ver : Nat} (hlo : 21 ≤ dim) (hmod : dim % 4 = 1) (p : Nat × Nat) :
    p ∈ dataWalk dim ver ↔ p.1 < dim ∧ p.2 < dim ∧ p.1 ≠ 6 ∧ isFunction ver p.1 p.2 = false := by
  rw [dataWalk, List.mem_filter, mem_walkPlaces (atPair_first hlo hmod) (Nat.sub_le _ _), Bool.not_eq_true']
  constructor
  · rintro ⟨⟨hx, h6, hy⟩, hf⟩
    exact ⟨by omega, hy, h6, hf⟩
  · rintro ⟨hx, hy, h6, hf⟩
    exact ⟨⟨by omega, h6, hy⟩, hf⟩

theorem dataWalk_pairwise {dim : Nat} (ver : Nat) (hlo : 21 ≤ dim) (hmod : dim % 4 = 1) :
    (dataWalk dim ver).Pairwise fun p q => walkKey dim p < walkKey dim q := by
  refine List.Pairwise.filter _ (List.pairwise_map.mp ?_)
  rw [map_walkKey_walkPlaces (m := 0) (atPair_first hlo hmod) (by decide)]
  exact List.pairwise_lt_range'

theorem length_packBytes (bs : List Bool) : (packBytes bs).length = bs.length / 8 := by
  induction bs using packBytes.induct with
  | case1 b7 b6 b5 b4 b3 b2 b1 b0 rest ih =>
    rw [packBytes, List.length_cons, ih]
    simp only [List.length_cons]
    omega
  | case2 bs hshort =>
    rw [packBytes.eq_2 _ hshort]
    match bs, hshort with
    | [], _ | [_], _ | [_, _], _ | [_, _, _], _ | [_, _, _, _], _ | [_, _, _, _, _], _ | [_, _, _, _, _, _], _
    | [_, _, _, _, _, _, _], _ => simp
    | b7 :: b6 :: b5 :: b4 :: b3 :: b2 :: b1 :: b0 :: rest, h => exact absurd rfl (h _ _ _ _ _ _ _ _ _)

theorem getLsbD_byte (b7 b6 b5 b4 b3 b2 b1 b0 : Bool) : ∀ k < 8,
    (BitVec.ofNat 8 (fieldValue [b7, b6, b5, b4, b3, b2, b1, b0])).getLsbD (7 - k) =
      [b7, b6, b5, b4, b3, b2, b1, b0].getD k false := by
  revert b7 b6 b5 b4 b3 b2 b1 b0
  decide +kernel

/-- Bit `7 - k` of byte `n` is bit `8n + k` of the list. -/
theorem getLsbD_packBytes {bs : List Bool} {n k : Nat} (hn : n < (packBytes bs).length) (hk : k < 8) :
    ((packBytes bs).getD n 0).getLsbD (7 - k) = bs.getD (8 * n + k) false := by
  induction bs using packBytes.induct generalizing n with
  | case1 b7 b6 b5 b4 b3 b2 b1 b0 rest ih =>
    rw [packBytes] at hn ⊢
    cases n with
    | zero =>
      rw [List.getD_cons_zero, getLsbD_byte _ _ _ _ _ _ _ _ k hk]
      interval_cases k <;> rfl
    | succ n =>
      rw [List.getD_cons_succ, ih (by simpa using hn), Nat.mul_succ, Nat.add_right_comm]
      rfl
  | case2 bs hshort =>
    rw [packBytes.eq_2 _ hshort] at hn
    cases hn

/-- Settles O53: the walk's keys are consecutive, its members are known, and its bits are packed eight by eight. -/
theorem codewordWalk : Obligations.CodewordWalk := by
  intro mod dim ver mask cw hlo _ hmod h
  have hcw : cw = packBytes ((dataWalk dim ver).map fun p => xor (mod p.1 p.2) (maskBit mask p.2 p.1)) := by
    simp only [readCodewords] at h
    split at h <;> cases h
    rfl
  have hlen : cw.length = (dataWalk dim ver).length / 8 := by rw [hcw, length_packBytes, List.length_map]
  refine ⟨length_readCodewords h, dataWalk dim ver, dataWalk_pairwise ver hlo hmod, mem_dataWalk hlo hmod, hlen,
    fun n k hn hk => ?_⟩
  have hin : 8 * n + k < (dataWalk dim ver).length := by omega
  rw [hcw] at hn ⊢
  rw [getLsbD_packBytes hn hk, List.getD_eq_getElem _ _ (by rwa [List.length_map]), List.getElem_map,
    List.getD_eq_getElem _ _ hin]

end Sys2Proof.Proofs
end

section
/-!
PROOFS about Reed-Solomon decoding (`45_reed_solomon.md` R380 to R397): the field by its exponents, and a code vector with one
byte changed, which the procedure finds: its syndromes are a geometric sequence, the Euclidean iteration stops after one
round, and the locator has one root.
-/

namespace Sys2Proof.Proofs

open Sys2Proof Sys2Proof.Machine Sys2Proof.Laws

/-! ## The field (R380 to R382) -/

/-- Multiplication by the generator element 2 (R380). -/
def double (a : Byte) : Byte := if a.msb then (a <<< 1) ^^^ 0x1D#8 else a <<< 1

theorem double_xor (a b : Byte) : double (a ^^^ b) = double a ^^^ double b := by
  have hshift : (a ^^^ b) <<< 1 = (a <<< 1) ^^^ (b <<< 1) := BitVec.shiftLeft_xor_distrib ..
  unfold double
  rw [hshift, BitVec.msb_xor]
  cases a.msb <;> cases b.msb
  · rfl
  · exact BitVec.xor_assoc ..
  · show (a <<< 1) ^^^ (b <<< 1) ^^^ 0x1D#8 = (a <<< 1) ^^^ 0x1D#8 ^^^ (b <<< 1)
    rw [BitVec.xor_assoc, BitVec.xor_assoc, BitVec.xor_comm (b <<< 1)]
  · show (a <<< 1) ^^^ (b <<< 1) = (a <<< 1) ^^^ 0x1D#8 ^^^ ((b <<< 1) ^^^ 0x1D#8)
    rw [BitVec.xor_comm (b <<< 1) 0x1D#8, BitVec.xor_assoc, ← BitVec.xor_assoc 0x1D#8, BitVec.xor_self, BitVec.zero_xor]

theorem double_iterate_xor (n : Nat) (a b : Byte) : double^[n] (a ^^^ b) = double^[n] a ^^^ double^[n] b := by
  induction n generalizing a b with
  | zero => rfl
  | succ n ih => rw [Function.iterate_succ_apply, double_xor, ih, Function.iterate_succ_apply, Function.iterate_succ_apply]

theorem gfpow_congr {m n : Nat} (h : m % 255 = n % 255) : gfpow m = gfpow n := by rw [gfpow, gfpow, h]

@[simp] theorem gfpow_zero : gfpow 0 = 1 := rfl

theorem gfpow_succ (n : Nat) : gfpow (n + 1) = double (gfpow n) := by
  have hlt := Nat.mod_lt n (show 0 < 255 by decide)
  have hsucc := expAt_succ (n % 255) hlt
  have hstep : gfpow (n + 1) = expAt (n % 255 + 1) := by
    by_cases hend : n % 255 = 254
    · rw [gfpow, hend, show (n + 1) % 255 = 0 by omega]
      decide +kernel
    · rw [gfpow, show (n + 1) % 255 = n % 255 + 1 by omega]
  rw [hstep, hsucc]
  rfl

theorem gfpow_add (m n : Nat) : gfpow (m + n) = double^[m] (gfpow n) := by
  induction m with
  | zero => rw [Nat.zero_add]; rfl
  | succ m ih => rw [Nat.succ_add, gfpow_succ, ih, Function.iterate_succ_apply']

theorem gfpow_ne_zero (n : Nat) : gfpow n ≠ 0 := by
  have h : ∀ i < 255, expAt i ≠ 0 := by decide +kernel
  exact h _ (Nat.mod_lt _ (by decide))

theorem logAt_lt (a : Byte) : logAt a < 255 := by
  have h : ∀ n < 256, logTable.getD n 0 < 255 := by decide +kernel
  exact h _ a.isLt

theorem logAt_gfpow (n : Nat) : logAt (gfpow n) = n % 255 := logAt_expAt _ (Nat.mod_lt _ (by decide))

/-- Every element but 0 is a power of the generator element. -/
theorem gfpow_logAt {a : Byte} (ha : a ≠ 0) : gfpow (logAt a) = a := by
  rw [gfpow, Nat.mod_eq_of_lt (logAt_lt a), expAt_logAt ha]

theorem gfmul_gfpow (m n : Nat) : gfmul (gfpow m) (gfpow n) = gfpow (m + n) := by
  have hne : ¬ (gfpow m = 0 ∨ gfpow n = 0) := not_or.mpr ⟨gfpow_ne_zero m, gfpow_ne_zero n⟩
  rw [gfmul, if_neg hne, logAt_gfpow, logAt_gfpow, gfpow, ← Nat.add_mod]

theorem gfinv_gfpow (n : Nat) : gfinv (gfpow n) = gfpow (255 - n % 255) := by rw [gfinv, logAt_gfpow, gfpow]

@[simp] theorem gfmul_zero_left (a : Byte) : gfmul 0#8 a = 0#8 := if_pos (.inl rfl)

@[simp] theorem gfmul_zero_right (a : Byte) : gfmul a 0#8 = 0#8 := if_pos (.inr rfl)

@[simp] theorem gfmul_one_right (a : Byte) : gfmul a 1#8 = a := by
  by_cases ha : a = 0
  · simp [ha]
  · rw [← gfpow_logAt ha, show (1#8 : Byte) = gfpow 0 from rfl, gfmul_gfpow, Nat.add_zero]

theorem gfmul_comm (a b : Byte) : gfmul a b = gfmul b a := by
  simp only [gfmul, Nat.add_comm (logAt b), or_comm (a := b = 0)]

/-- Multiplying by a power of 2 is doubling as often. -/
theorem gfmul_gfpow_left (m : Nat) (b : Byte) : gfmul (gfpow m) b = double^[m] b := by
  by_cases hb : b = 0
  · have hzero := double_iterate_xor m 0 0
    rw [BitVec.xor_self, BitVec.xor_self] at hzero
    rw [hb]
    exact (gfmul_zero_right _).trans hzero.symm
  · rw [← gfpow_logAt hb, gfmul_gfpow, gfpow_add]

theorem gfmul_xor_left (a b c : Byte) : gfmul (a ^^^ b) c = gfmul a c ^^^ gfmul b c := by
  rw [gfmul_comm _ c, gfmul_comm a c, gfmul_comm b c]
  by_cases hc : c = 0
  · simp [hc]
  · rw [← gfpow_logAt hc, gfmul_gfpow_left, gfmul_gfpow_left, gfmul_gfpow_left, double_iterate_xor]

theorem gfmul_gfmul_gfpow (a : Byte) (m n : Nat) : gfmul (gfmul a (gfpow m)) (gfpow n) = gfmul a (gfpow (m + n)) := by
  by_cases ha : a = 0
  · simp [ha]
  · rw [← gfpow_logAt ha, gfmul_gfpow, gfmul_gfpow, gfmul_gfpow, Nat.add_assoc]

/-! ## The syndromes of one changed byte (R392) -/

/-- What a change `d` of the running value does to Horner's rule. -/
theorem horner_xor (j : Nat) (l : List Byte) (r d : Byte) :
    l.foldl (fun r c => gfmul r (gfpow j) ^^^ c) (r ^^^ d) =
      l.foldl (fun r c => gfmul r (gfpow j) ^^^ c) r ^^^ gfmul d (gfpow (j * l.length)) := by
  induction l generalizing r d with
  | nil => simp
  | cons c l ih =>
    have hhead : gfmul (r ^^^ d) (gfpow j) ^^^ c = (gfmul r (gfpow j) ^^^ c) ^^^ gfmul d (gfpow j) := by
      rw [gfmul_xor_left, BitVec.xor_assoc, BitVec.xor_comm _ c, ← BitVec.xor_assoc]
    rw [List.foldl_cons, List.foldl_cons, hhead, ih, gfmul_gfmul_gfpow, List.length_cons, Nat.mul_succ, Nat.add_comm j]

theorem peval_set {c : List Byte} {i : Nat} (hi : i < c.length) (v : Byte) (j : Nat) :
    peval (c.set i (c.getD i 0 ^^^ v)) (gfpow j) = peval c (gfpow j) ^^^ gfmul v (gfpow (j * (c.length - 1 - i))) := by
  have hsplit : c = c.take i ++ c.getD i 0 :: c.drop (i + 1) := by
    rw [List.getD_eq_getElem _ _ hi, ← List.drop_eq_getElem_cons hi, List.take_append_drop]
  have hlen : (c.drop (i + 1)).length = c.length - 1 - i := by rw [List.length_drop]; omega
  rw [List.set_eq_take_append_cons_drop, if_pos hi]
  conv_rhs => rw [hsplit]
  rw [peval, peval, List.foldl_append, List.foldl_append, List.foldl_cons, List.foldl_cons, ← BitVec.xor_assoc, horner_xor,
    hlen, ← hsplit]

/-- A geometric sequence of field elements, by exponents. -/
def geom (u l n : Nat) : List Byte := (List.range n).map fun i => gfpow (u + l * i)

@[simp] theorem length_geom (u l n : Nat) : (geom u l n).length = n := by simp [geom]

theorem geom_succ_last (u l n : Nat) : geom u l (n + 1) = geom u l n ++ [gfpow (u + l * n)] := by
  rw [geom, List.range_succ, List.map_append]
  rfl

theorem geom_succ_first (u l n : Nat) : geom u l (n + 1) = gfpow u :: geom (u + l) l n := by
  rw [geom, List.range_succ_eq_map, List.map_cons, List.map_map]
  refine congrArg₂ _ (by rw [Nat.mul_zero, Nat.add_zero]) (List.map_congr_left fun i _ => ?_)
  rw [Function.comp_apply, Nat.mul_succ, Nat.add_assoc, Nat.add_comm l]

theorem map_gfmul_geom (u l n m : Nat) : (geom u l n).map (fun x => gfmul x (gfpow m)) = geom (u + m) l n := by
  rw [geom, List.map_map]
  refine List.map_congr_left fun i _ => ?_
  rw [Function.comp_apply, gfmul_gfpow, Nat.add_right_comm]

theorem geom_congr {u u' : Nat} (l n : Nat) (h : u % 255 = u' % 255) : geom u l n = geom u' l n :=
  List.map_congr_left fun i _ => gfpow_congr (by omega)

theorem syndromes_set {c : List Byte} {ec i : Nat} {v : Byte} (hcode : ∀ j, j < ec → peval c (gfpow j) = 0)
    (hi : i < c.length) (hv : v ≠ 0) :
    syndromes (c.set i (c.getD i 0 ^^^ v)) ec = geom (logAt v) (c.length - 1 - i) ec := by
  refine List.map_congr_left fun j hj => ?_
  rw [peval_set hi, hcode j (List.mem_range.mp hj)]
  conv_lhs => rw [← gfpow_logAt hv]
  rw [gfmul_gfpow, Nat.mul_comm]
  exact BitVec.zero_xor

/-! ## Polynomials (R383) -/

theorem pnorm_cons_zero (p : List Byte) : pnorm (0 :: p) = pnorm p := by
  rw [pnorm, List.dropWhile_cons_of_pos (by simp)]
  rfl

theorem pnorm_cons {c : Byte} (h : c ≠ 0) (p : List Byte) : pnorm (c :: p) = c :: p := by
  rw [pnorm, List.dropWhile_cons_of_neg (by simpa using h)]

theorem pnorm_replicate_append (n : Nat) (p : List Byte) : pnorm (List.replicate n 0 ++ p) = pnorm p := by
  induction n with
  | zero => rfl
  | succ n ih => rw [List.replicate_succ, List.cons_append, pnorm_cons_zero, ih]

@[simp] theorem addLow_nil_right (a : List Byte) : addLow a [] = a := by cases a <;> rfl

theorem addLow_self (a : List Byte) : addLow a a = List.replicate a.length 0 := by
  induction a with
  | nil => rfl
  | cons x a ih => rw [addLow, BitVec.xor_self, ih]; rfl

theorem addLow_append {a b c d : List Byte} (h : a.length = b.length) :
    addLow (a ++ c) (b ++ d) = addLow a b ++ addLow c d := by
  induction a generalizing b with
  | nil =>
    rw [List.length_nil] at h
    rw [List.eq_nil_of_length_eq_zero h.symm]
    rfl
  | cons x a ih =>
    cases b with
    | nil => cases h
    | cons y b => rw [List.cons_append, List.cons_append, addLow, addLow, ih (Nat.succ.inj h)]; rfl

theorem addLow_zeros (a : List Byte) : addLow (List.replicate a.length 0) a = a := by
  induction a with
  | nil => rfl
  | cons x a ih =>
    rw [List.length_cons, List.replicate_succ, addLow, ih]
    exact congrArg (· :: a) BitVec.zero_xor

/-- The product with a constant. -/
theorem mulLow_singleton (a : List Byte) (c : Byte) : mulLow a [c] = a.map fun x => gfmul x c := by
  induction a with
  | nil => rfl
  | cons x a ih => simp [mulLow, ih, addLow]

/-- The product with a multiple of `x`. -/
theorem mulLow_pair {a : List Byte} (h : a ≠ []) (c : Byte) : mulLow a [0, c] = 0 :: a.map fun x => gfmul x c := by
  induction a with
  | nil => exact absurd rfl h
  | cons x a ih =>
    by_cases ha : a = []
    · subst ha
      simp [mulLow, addLow]
    · rw [mulLow, ih ha]
      simp [addLow]

theorem reverse_geom_succ (u l n : Nat) : (geom u l (n + 1)).reverse = gfpow (u + l * n) :: (geom u l n).reverse := by
  rw [geom_succ_last, List.reverse_append]
  rfl

theorem pnorm_reverse_geom (u l n : Nat) : pnorm (geom u l (n + 1)).reverse = (geom u l (n + 1)).reverse := by
  rw [reverse_geom_succ, pnorm_cons (gfpow_ne_zero _)]

/-! ## One round of the Euclidean iteration (R393) -/

section

variable (u l k : Nat)

/-- The exponent of the inverse of the leading syndrome. -/
def leadInv : Nat := 255 - (u + l * (k + 1)) % 255

/-- The exponent of the constant coefficient of the quotient. -/
def quotConst : Nat := u + leadInv u l k + l * k + leadInv u l k

theorem gfinv_lead : gfinv (plead (geom u l (k + 2)).reverse) = gfpow (leadInv u l k) := by
  rw [reverse_geom_succ]
  exact gfinv_gfpow _

/-- A reversed sequence with a last zero has no leading one. -/
theorem pnorm_reverse_cons_geom (c : Byte) (u l n : Nat) :
    pnorm (c :: geom u l (n + 1)).reverse = (c :: geom u l (n + 1)).reverse := by
  rw [List.reverse_cons, reverse_geom_succ, List.cons_append, pnorm_cons (gfpow_ne_zero _)]

theorem geom_ne_nil (n : Nat) : geom u l (n + 1) ≠ [] := by
  rw [geom_succ_first]
  exact List.cons_ne_nil _ _

theorem pmul_geom_linear (n m : Nat) :
    pmul (geom u l (n + 1)).reverse (pmono 1 (gfpow m)) = (0 :: geom (u + m) l (n + 1)).reverse := by
  rw [pmul, pmono, if_neg (gfpow_ne_zero m), List.reverse_reverse]
  show pnorm (mulLow _ [0, gfpow m]).reverse = _
  rw [mulLow_pair (geom_ne_nil u l n), map_gfmul_geom, pnorm_reverse_cons_geom]

theorem pmul_geom_const (n m : Nat) :
    pmul (geom u l (n + 1)).reverse (pmono 0 (gfpow m)) = (geom (u + m) l (n + 1)).reverse := by
  rw [pmul, pmono, if_neg (gfpow_ne_zero m), List.reverse_reverse]
  show pnorm (mulLow _ [gfpow m]).reverse = _
  rw [mulLow_singleton, map_gfmul_geom, pnorm_reverse_geom]

/-- The first subtraction clears the leading coefficient of `x^ec`. -/
theorem padd_first :
    padd (pmono (k + 2) 1) (pmul (geom u l (k + 2)).reverse (pmono 1 (gfpow (leadInv u l k)))) =
      (0 :: geom (u + leadInv u l k) l (k + 1)).reverse := by
  have hlead : gfpow (u + leadInv u l k + l * (k + 1)) = 1 :=
    gfpow_congr (n := 0) (by unfold leadInv; generalize l * (k + 1) = p; omega)
  have hmono : (pmono (k + 2) 1).reverse = List.replicate (k + 2) 0 ++ [1] := by
    rw [pmono, if_neg (by decide), List.reverse_cons, List.reverse_replicate]
  have hlen : (0 :: geom (u + leadInv u l k) l (k + 1)).length = k + 2 := by simp
  have hzeros := addLow_zeros (0 :: geom (u + leadInv u l k) l (k + 1))
  rw [hlen] at hzeros
  rw [padd, hmono, pmul_geom_linear, List.reverse_reverse, geom_succ_last, hlead, ← List.cons_append,
    addLow_append (by rw [hlen, List.length_replicate]), hzeros]
  show pnorm ((0 :: geom (u + leadInv u l k) l (k + 1)) ++ [0]).reverse = _
  rw [List.reverse_append]
  exact (pnorm_cons_zero _).trans (pnorm_reverse_cons_geom ..)

/-- The second leaves a constant. -/
theorem padd_second :
    padd (0 :: geom (u + leadInv u l k) l (k + 1)).reverse
        (pmul (geom u l (k + 2)).reverse (pmono 0 (gfpow (quotConst u l k)))) =
      [gfpow (u + quotConst u l k)] := by
  have hsame : geom (u + quotConst u l k + l) l (k + 1) = geom (u + leadInv u l k) l (k + 1) :=
    geom_congr l _ (by unfold quotConst leadInv; rw [Nat.mul_succ]; generalize l * k = p; omega)
  rw [padd, pmul_geom_const, List.reverse_reverse, List.reverse_reverse,
    geom_succ_first (u + quotConst u l k) l (k + 1), hsame, addLow, addLow_self, List.reverse_cons,
    List.reverse_replicate, pnorm_replicate_append]
  have hzero : 0 ^^^ gfpow (u + quotConst u l k) = gfpow (u + quotConst u l k) := BitVec.zero_xor
  rw [hzero, pnorm_cons (gfpow_ne_zero _)]

/-- The quotient of the round. -/
theorem padd_quotient :
    padd (padd [0] (pmono 1 (gfpow (leadInv u l k)))) (pmono 0 (gfpow (quotConst u l k))) =
      [gfpow (leadInv u l k), gfpow (quotConst u l k)] := by
  have hfirst : padd [0] (pmono 1 (gfpow (leadInv u l k))) = [gfpow (leadInv u l k), 0] := by
    rw [pmono, if_neg (gfpow_ne_zero _)]
    exact pnorm_cons (gfpow_ne_zero _) _
  have hconst : 0 ^^^ gfpow (quotConst u l k) = gfpow (quotConst u l k) := BitVec.zero_xor
  rw [hfirst, pmono, if_neg (gfpow_ne_zero _)]
  show pnorm [gfpow (leadInv u l k), 0 ^^^ gfpow (quotConst u l k)] = _
  rw [hconst, pnorm_cons (gfpow_ne_zero _)]

theorem pIsZero_cons {c : Byte} (h : c ≠ 0) (p : List Byte) : pIsZero (c :: p) = false := by
  rw [pIsZero, beq_eq_false_iff_ne]
  exact fun heq => h (List.cons.inj heq).1

theorem euclidDivide_stop {rl q r : List Byte} {inv : Byte} {n : Nat} (h : pdeg r < pdeg rl) :
    euclidDivide rl inv n q r = (q, r) := by
  cases n with
  | zero => rfl
  | succ n => rw [euclidDivide, if_neg fun hgo => absurd hgo.1 (by omega)]

theorem euclidDivide_go {rl q r : List Byte} {inv : Byte} {n : Nat} (h : pdeg rl ≤ pdeg r) (hr : pIsZero r = false) :
    euclidDivide rl inv (n + 1) q r =
      euclidDivide rl inv n (padd q (pmono (pdeg r - pdeg rl) (gfmul (plead r) inv)))
        (padd r (pmul rl (pmono (pdeg r - pdeg rl) (gfmul (plead r) inv)))) := by
  rw [euclidDivide, if_pos ⟨h, by rw [hr]; rfl⟩]

/-- The division of `x^ec` by the syndrome polynomial takes two subtractions. -/
theorem euclidDivide_round :
    euclidDivide (geom u l (k + 2)).reverse (gfpow (leadInv u l k)) (k + 2 + 2) [0] (pmono (k + 2) 1) =
      ([gfpow (leadInv u l k), gfpow (quotConst u l k)], [gfpow (u + quotConst u l k)]) := by
  have hdegS : pdeg (geom u l (k + 2)).reverse = k + 1 := by simp [pdeg]
  have hdegX : pdeg (pmono (k + 2) 1) = k + 2 := by simp [pdeg, pmono]
  have hdegR : pdeg (0 :: geom (u + leadInv u l k) l (k + 1)).reverse = k + 1 := by simp [pdeg]
  have hleadX : gfmul (plead (pmono (k + 2) 1)) (gfpow (leadInv u l k)) = gfpow (leadInv u l k) := by
    rw [gfmul_comm]
    exact gfmul_one_right _
  have hR : (0 :: geom (u + leadInv u l k) l (k + 1)).reverse =
      gfpow (u + leadInv u l k + l * k) :: ((geom (u + leadInv u l k) l k).reverse ++ [0]) := by
    rw [List.reverse_cons, reverse_geom_succ, List.cons_append]
  have hleadR : gfmul (plead (0 :: geom (u + leadInv u l k) l (k + 1)).reverse) (gfpow (leadInv u l k)) =
      gfpow (quotConst u l k) := by
    rw [hR]
    exact gfmul_gfpow _ _
  rw [euclidDivide_go (by omega) (by rw [pmono, if_neg (by decide), pIsZero_cons (by decide)]), hdegX, hdegS, hleadX,
    show k + 2 - (k + 1) = 1 by omega, padd_first,
    euclidDivide_go (by omega) (by rw [hR, pIsZero_cons (gfpow_ne_zero _)]), hdegR, hdegS, hleadR, Nat.sub_self,
    padd_second, padd_quotient, euclidDivide_stop]
  rw [hdegS]
  show 0 < k + 1
  omega

/-- The Euclidean iteration stops after that round. -/
theorem euclidLoop_round :
    euclidLoop (k + 2) (k + 2 + 1) (pmono (k + 2) 1) (geom u l (k + 2)).reverse [0] [1] =
      some ([gfpow (leadInv u l k), gfpow (quotConst u l k)], [gfpow (u + quotConst u l k)]) := by
  have hdegS : pdeg (geom u l (k + 2)).reverse = k + 1 := by simp [pdeg]
  have hprod : padd (pmul [gfpow (leadInv u l k), gfpow (quotConst u l k)] [1]) [0] =
      [gfpow (leadInv u l k), gfpow (quotConst u l k)] := by
    have hmul : pmul [gfpow (leadInv u l k), gfpow (quotConst u l k)] [1] =
        [gfpow (leadInv u l k), gfpow (quotConst u l k)] := by
      rw [pmul, List.reverse_singleton, mulLow_singleton]
      simp only [List.reverse_cons, List.reverse_nil, List.nil_append, List.cons_append, List.map_cons, List.map_nil]
      rw [show ∀ n, gfmul (gfpow n) 1 = gfpow n from fun n => gfmul_one_right _,
        show ∀ n, gfmul (gfpow n) 1 = gfpow n from fun n => gfmul_one_right _, pnorm_cons (gfpow_ne_zero _)]
    rw [hmul]
    show pnorm [gfpow (leadInv u l k), gfpow (quotConst u l k) ^^^ 0] = _
    rw [show gfpow (quotConst u l k) ^^^ 0 = gfpow (quotConst u l k) from BitVec.xor_zero, pnorm_cons (gfpow_ne_zero _)]
  rw [euclidLoop, if_neg (by omega), if_neg (by rw [reverse_geom_succ, pIsZero_cons (gfpow_ne_zero _)]; simp), gfinv_lead,
    euclidDivide_round]
  dsimp only
  rw [hprod, if_neg (by rw [hdegS]; exact Nat.not_succ_le_zero _), euclidLoop]
  exact if_pos (Nat.succ_pos _)

/-- R393: the locator and the evaluator. -/
theorem keyEquation_geom : keyEquation (geom u l (k + 2)) (k + 2) = some ([gfpow l, 1], [gfpow u]) := by
  have hratio : gfmul (gfpow (leadInv u l k)) (gfinv (gfpow (quotConst u l k))) = gfpow l := by
    rw [gfinv_gfpow, gfmul_gfpow]
    refine gfpow_congr ?_
    unfold quotConst leadInv
    rw [Nat.mul_succ]
    generalize l * k = p
    omega
  have hone : gfmul (gfpow (quotConst u l k)) (gfinv (gfpow (quotConst u l k))) = 1 := by
    rw [gfinv_gfpow, gfmul_gfpow]
    exact gfpow_congr (n := 0) (by omega)
  have heval : gfmul (gfpow (u + quotConst u l k)) (gfinv (gfpow (quotConst u l k))) = gfpow u := by
    rw [gfinv_gfpow, gfmul_gfpow]
    exact gfpow_congr (by omega)
  unfold keyEquation
  rw [pnorm_reverse_geom, euclidLoop_round]
  dsimp only
  rw [show pcoef [gfpow (leadInv u l k), gfpow (quotConst u l k)] 0 = gfpow (quotConst u l k) from rfl,
    if_neg (gfpow_ne_zero _)]
  simp only [pscale, List.map_cons, List.map_nil, hratio, hone, heval, pnorm_cons (gfpow_ne_zero _)]

end

/-! ## The root of the locator (R394) and the correction (R395) -/

/-- The elements the search tries, in its order. -/
def nonzeroBytes : List Byte := (List.range 255).map fun i => BitVec.ofNat 8 (i + 1)

theorem nodup_nonzeroBytes : nonzeroBytes.Nodup := by
  refine List.Nodup.map_on (fun i hi j hj heq => ?_) List.nodup_range
  rw [List.mem_range] at hi hj
  have h := congrArg BitVec.toNat heq
  simp only [BitVec.toNat_ofNat] at h
  omega

theorem mem_nonzeroBytes {a : Byte} (ha : a ≠ 0) : a ∈ nonzeroBytes := by
  have hpos : a.toNat ≠ 0 := fun h => ha (BitVec.eq_of_toNat_eq h)
  have hlt := a.isLt
  refine List.mem_map.mpr ⟨a.toNat - 1, List.mem_range.mpr (by omega), ?_⟩
  rw [Nat.sub_add_cancel (by omega)]
  simp

theorem peval_locator (l : Nat) (e : Byte) : peval [gfpow l, 1] e = 0 ↔ e = gfinv (gfpow l) := by
  have hval : peval [gfpow l, 1] e = gfmul (gfpow l) e ^^^ 1 := by
    simp [peval]
  rw [hval, gfinv_gfpow]
  refine BitVec.xor_eq_zero_iff.trans ?_
  constructor
  · intro h
    have he : e ≠ 0 := by
      rintro rfl
      exact absurd h (by simp)
    rw [← gfpow_logAt he, gfmul_gfpow] at h
    have hlog := congrArg logAt h
    rw [logAt_gfpow, show logAt 1 = 0 by decide +kernel] at hlog
    rw [← gfpow_logAt he]
    exact gfpow_congr (by omega)
  · rintro rfl
    rw [gfmul_gfpow]
    exact gfpow_congr (n := 0) (by omega)

theorem chien_locator (l : Nat) : chien [gfpow l, 1] = some [gfpow l] := by
  have hroots : (nonzeroBytes.filter fun e => peval [gfpow l, 1] e = 0) = [gfinv (gfpow l)] := by
    simp only [peval_locator]
    rw [List.filter_eq, List.count_eq_one_of_mem nodup_nonzeroBytes (mem_nonzeroBytes _)]
    · rfl
    · rw [gfinv_gfpow]
      exact gfpow_ne_zero _
  have hinv : gfinv (gfinv (gfpow l)) = gfpow l := by
    rw [gfinv_gfpow, gfinv_gfpow]
    exact gfpow_congr (by omega)
  unfold chien
  rw [show ((List.range 255).map fun i => BitVec.ofNat 8 (i + 1)) = nonzeroBytes from rfl, hroots]
  simp [pdeg, hinv]

theorem forney_one {rec : List Byte} {u l : Nat} (hl : l < rec.length) (hlen : rec.length ≤ 255) :
    forney [gfpow u] [gfpow l] (List.range 1) rec =
      some (rec.set (rec.length - 1 - l) (rec.getD (rec.length - 1 - l) 0 ^^^ gfpow u)) := by
  have hlog : logAt (gfpow l) = l := by rw [logAt_gfpow, Nat.mod_eq_of_lt (by omega)]
  have hmag : forneyMagnitude [gfpow u] [gfpow l] 0 = gfpow u := by
    have heval : peval [gfpow u] (gfinv (gfpow l)) = gfpow u := by simp [peval]
    have hden : gfinv 1 = gfpow 0 := by decide +kernel
    show gfmul (peval [gfpow u] (gfinv (gfpow l))) (gfinv 1) = gfpow u
    rw [heval, hden, gfmul_gfpow, Nat.add_zero]
  show forney [gfpow u] [gfpow l] [0] rec = _
  simp only [forney, List.getD_cons_zero, hlog, hmag]
  rw [if_neg (by omega)]

/-! ## One changed byte -/

theorem byteDist_cons (x y : Byte) (a b : List Byte) :
    byteDist (x :: a) (y :: b) = byteDist a b + if x = y then 0 else 1 := by
  by_cases h : x = y <;> simp [byteDist, h]

theorem byteDist_set {c : List Byte} {i : Nat} {w : Byte} (hi : i < c.length) (hw : w ≠ c.getD i 0) :
    byteDist c (c.set i w) = 1 := by
  induction c generalizing i with
  | nil => cases hi
  | cons x c ih =>
    cases i with
    | zero => rw [List.set_cons_zero, byteDist_cons, byteDist_self, if_neg fun h => hw h.symm]
    | succ i =>
      rw [List.set_cons_succ, byteDist_cons, if_pos rfl, ih (Nat.lt_of_succ_lt_succ hi) (by simpa using hw)]

/-- R393 to R395: the corrections for one changed byte restore the vector. -/
theorem correctErrors_set {c : List Byte} {ec i : Nat} {v : Byte} (hec : 2 ≤ ec) (hlen : c.length ≤ 255)
    (hcode : ∀ j, j < ec → peval c (gfpow j) = 0) (hi : i < c.length) (hv : v ≠ 0) :
    correctErrors (c.set i (c.getD i 0 ^^^ v)) ec (syndromes (c.set i (c.getD i 0 ^^^ v)) ec) = some c := by
  obtain ⟨k, rfl⟩ : ∃ k, ec = k + 2 := ⟨ec - 2, by omega⟩
  have hpos : (c.set i (c.getD i 0 ^^^ v)).length - 1 - (c.length - 1 - i) = i := by rw [List.length_set]; omega
  have hback : (c.set i (c.getD i 0 ^^^ v)).getD i 0 ^^^ v = c.getD i 0 := by
    rw [List.getD_eq_getElem _ _ (by rwa [List.length_set]), List.getElem_set_self, BitVec.xor_assoc, BitVec.xor_self]
    exact BitVec.xor_zero
  rw [syndromes_set hcode hi hv]
  unfold correctErrors
  rw [keyEquation_geom]
  dsimp only
  rw [chien_locator]
  show forney _ _ (List.range 1) _ = _
  rw [forney_one (by rw [List.length_set]; omega) (by rwa [List.length_set]), hpos, gfpow_logAt hv, hback, List.set_set,
    List.getD_eq_getElem _ _ hi, List.set_getElem_self]

/-- Settles O58: the syndromes are not all 0, and the corrections they lead to restore the vector. -/
theorem singleByteCorrected : Obligations.SingleByteCorrected := by
  intro c ec i v hec _ hlen hcode hi hv
  have hnot : isCodeVector (c.set i (c.getD i 0 ^^^ v)) ec = false := by
    rw [← Bool.not_eq_true, isCodeVector_iff]
    intro hall
    have hzero := hall 0 (by omega)
    rw [peval_set hi, hcode 0 (by omega), Nat.zero_mul] at hzero
    have hv' : 0 ^^^ gfmul v (gfpow 0) = v := BitVec.zero_xor.trans (gfmul_one_right v)
    exact hv (hv'.symm.trans hzero)
  have hdist : byteDist c (c.set i (c.getD i 0 ^^^ v)) = 1 := byteDist_set hi fun h => by
    have hself : c.getD i 0 ^^^ (c.getD i 0 ^^^ v) = c.getD i 0 ^^^ c.getD i 0 := congrArg _ h
    rw [← BitVec.xor_assoc, BitVec.xor_self] at hself
    exact hv (BitVec.zero_xor.symm.trans hself)
  have hhalf : 1 ≤ ec / 2 := by omega
  unfold rsDecode
  rw [hnot, if_neg Bool.false_ne_true, correctErrors_set hec hlen hcode hi hv]
  dsimp only
  rw [hdist, (isCodeVector_iff c ec).mpr hcode, decide_eq_true hhalf]
  rfl

end Sys2Proof.Proofs
end
